-- ==== Sys2Proof/Word.lean ====
section
/-! DEFINITION. The bit-vector types of the BPU's ports (10_state R16, R17). -/

namespace Sys2Proof

/-- A byte: 8 bits (00_scope R7). Also the type of a command byte (30_encoding R35). -/
abbrev Byte := BitVec 8

/-- The value of a 64-bit port: `a`, `s` or `res` (10_state R16, R17). -/
abbrev PortWord := BitVec 64

/-- The value of the 2-bit port `err` (10_state R17). -/
abbrev ErrCode := BitVec 2

end Sys2Proof
end

