-- ==== Sys2Proof/Syntax.lean ====
section
/-! DEFINITION. The commands of the BPU, one constructor of `Instr` per row of spec/opcode_table.json
(30_encoding R43), and the names of the errors (60_exceptions R74). -/

namespace Sys2Proof

/-- The three operations (00_scope R1; 30_encoding R37). -/
inductive Operation where
  | rol
  | ror
  | bswap
deriving DecidableEq, Repr

/-- The four word widths (00_scope R6; 30_encoding R39). -/
inductive Width where
  | w8
  | w16
  | w32
  | w64
deriving DecidableEq, Repr

/-- W, in bits (30_encoding R39). -/
def Width.bits : Width → Nat
  | .w8 => 8
  | .w16 => 16
  | .w32 => 32
  | .w64 => 64

/-- The twelve assigned commands (30_encoding R43). None has an operand inside the command: the operands
arrive on the ports `a` and `s` (R42). -/
inductive Instr where
  | rol8
  | ror8
  | bswap8
  | rol16
  | ror16
  | bswap16
  | rol32
  | ror32
  | bswap32
  | rol64
  | ror64
  | bswap64
deriving DecidableEq, Repr

/-- The command of an operation at a width (30_encoding R43). -/
def Instr.of : Operation → Width → Instr
  | .rol, .w8 => .rol8
  | .rol, .w16 => .rol16
  | .rol, .w32 => .rol32
  | .rol, .w64 => .rol64
  | .ror, .w8 => .ror8
  | .ror, .w16 => .ror16
  | .ror, .w32 => .ror32
  | .ror, .w64 => .ror64
  | .bswap, .w8 => .bswap8
  | .bswap, .w16 => .bswap16
  | .bswap, .w32 => .bswap32
  | .bswap, .w64 => .bswap64

/-- The operation a command performs (30_encoding R43, column fn). -/
def Instr.operation : Instr → Operation
  | .rol8 | .rol16 | .rol32 | .rol64 => .rol
  | .ror8 | .ror16 | .ror32 | .ror64 => .ror
  | .bswap8 | .bswap16 | .bswap32 | .bswap64 => .bswap

/-- The word width of a command (30_encoding R43, column W). -/
def Instr.width : Instr → Width
  | .rol8 | .ror8 | .bswap8 => .w8
  | .rol16 | .ror16 | .bswap16 => .w16
  | .rol32 | .ror32 | .bswap32 => .w32
  | .rol64 | .ror64 | .bswap64 => .w64

/-- The twelve commands in the order of the table of 30_encoding R43. -/
def Instr.all : List Instr :=
  [.rol8, .ror8, .bswap8, .rol16, .ror16, .bswap16, .rol32, .ror32, .bswap32, .rol64, .ror64, .bswap64]

/-- The fields of a command byte, `cmd = {rsv, wsel, fn}` (30_encoding R36). Any byte has them, an unassigned
one too. -/
structure Command where
  rsv : BitVec 3
  wsel : BitVec 3
  fn : BitVec 2
deriving DecidableEq, Repr

/-- The error kinds of 60_exceptions R74. None of them stops the machine: each is an answer of the transaction
that caused it (R78, R80). -/
inductive BpuError where
  /-- A rotate whose shift amount lies outside [0, W) (R75). -/
  | invalidShift
  /-- An operation with a width code that selects no width (R76). -/
  | unsupportedWidth
  /-- A command with a reserved bit set or the reserved operation code (R77). -/
  | illegalCommand
deriving DecidableEq, Repr

end Sys2Proof
end

