-- ==== Sys2Proof/WellFormed.lean ====
section
/-! DEFINITION. Well-formedness of a command in fields: the three checks of 30_encoding R43 that tell the
twelve assigned commands from the 244 unassigned ones. -/

namespace Sys2Proof

/-- No reserved bit is set (30_encoding R38). -/
def Command.reservedClear (c : Command) : Bool := c.rsv == 0b000#3

/-- The operation code is assigned (30_encoding R37). -/
def Command.operationAssigned (c : Command) : Bool := c.fn != 0b11#2

/-- The width code selects a width (30_encoding R39). -/
def Command.widthSupported (c : Command) : Bool := decide (c.wsel.toNat ≤ 0b011)

/-- A command in fields is one of the twelve (30_encoding R43). -/
def Command.wellFormed (c : Command) : Bool :=
  c.reservedClear && c.operationAssigned && c.widthSupported

/-- Every term of `Instr` is well formed: a command carries no operand, immediate or register number
that could be out of range (30_encoding R42; 10_state R19). -/
def Instr.wellFormed : Instr → Bool
  | .rol8 | .rol16 | .rol32 | .rol64 => true
  | .ror8 | .ror16 | .ror32 | .ror64 => true
  | .bswap8 | .bswap16 | .bswap32 | .bswap64 => true

end Sys2Proof
end

