-- ==== Sys2Proof/Decode.lean ====
section
/-! DEFINITION. Decoding a command byte, total and rejecting by the error the BPU reports, and the encoder
(30_encoding R35 to R45; 60_exceptions R79). -/

namespace Sys2Proof

/-- The fields of a command byte: fn = cmd[1:0], wsel = cmd[4:2], rsv = cmd[7:5] (30_encoding R36). -/
def Command.ofByte (b : Byte) : Command :=
  { rsv := b.extractLsb' 5 3, wsel := b.extractLsb' 2 3, fn := b.extractLsb' 0 2 }

/-- `cmd = {rsv, wsel, fn}` (30_encoding R36). -/
def Command.toByte (c : Command) : Byte := c.rsv ++ c.wsel ++ c.fn

/-- The operation an `fn` code selects; none for the reserved code 0b11 (30_encoding R37). -/
def operationOfFn (fn : BitVec 2) : Option Operation :=
  if fn = 0b00#2 then some .rol
  else if fn = 0b01#2 then some .ror
  else if fn = 0b10#2 then some .bswap
  else none

/-- The width a `wsel` code selects; none for 0b100 to 0b111 (30_encoding R39). -/
def widthOfWsel (wsel : BitVec 3) : Option Width :=
  if wsel = 0b000#3 then some .w8
  else if wsel = 0b001#3 then some .w16
  else if wsel = 0b010#3 then some .w32
  else if wsel = 0b011#3 then some .w64
  else none

/-- The command a byte stands for, or the error it raises, in the priority of 60_exceptions R79:
IllegalCommand before UnsupportedWidth. -/
def decode (b : Byte) : Except BpuError Instr :=
  let c := Command.ofByte b
  if c.rsv ≠ 0b000#3 then .error .illegalCommand
  else
    match operationOfFn c.fn with
    | none => .error .illegalCommand
    | some op =>
      match widthOfWsel c.wsel with
      | none => .error .unsupportedWidth
      | some w => .ok (Instr.of op w)

/-- The `fn` code of an operation (30_encoding R37). -/
def fnOfOperation : Operation → BitVec 2
  | .rol => 0b00#2
  | .ror => 0b01#2
  | .bswap => 0b10#2

/-- The `wsel` code of a width (30_encoding R39). -/
def wselOfWidth : Width → BitVec 3
  | .w8 => 0b000#3
  | .w16 => 0b001#3
  | .w32 => 0b010#3
  | .w64 => 0b011#3

/-- The fields of a command, its reserved bits 0 (30_encoding R38, R43). -/
def commandOf (i : Instr) : Command :=
  { rsv := 0b000#3, wsel := wselOfWidth i.width, fn := fnOfOperation i.operation }

/-- The command byte of a command (30_encoding R36, R43). -/
def encode (i : Instr) : Byte := (commandOf i).toByte

/-- The instruction the decoder reads from a row of spec/opcode_table.json whose `nbits` bits are `w`, the
bits above them 0. A command is exactly 8 bits (30_encoding R35), so a longer word is no command
(log entry 5). -/
def decodeTableWord (nbits w : Nat) : Option Instr :=
  if nbits ≤ 8 then
    match decode (BitVec.ofNat 8 (w % 2 ^ nbits)) with
    | .ok i => some i
    | .error _ => none
  else none

end Sys2Proof
end

