-- ==== Sys2Proof/Config.lean ====
section
/-! DEFINITION. The implementation parameters of 00_scope R8. Laws/Config.lean proves that the model's
types and codes agree with the fixed ones. -/

namespace Sys2Proof.Config

/-- The supported word widths (00_scope R6, R8). -/
def supportedWidths : List Nat := [8, 16, 32, 64]

/-- The bits of a byte (00_scope R7). -/
def bitsPerByte : Nat := 8

/-- `res` on every error (00_scope R8; 60_exceptions R78). -/
def errorResult : PortWord := 0

/-- Clock cycles of a transaction: the unit is combinational (00_scope R8; 70_reset R91, R94). -/
def latencyCycles : Nat := 0

/-- `BPU_TPD`, the propagation delay in the platform's unit of time: the one OPEN parameter, for which the
spec gives no figure and which no rule reads (70_reset R93; 93 I9). It has no body, so no proof can know it
(log entry 6, safe). -/
opaque bpuTpd : Nat

end Sys2Proof.Config
end

