-- ==== Sys2Proof/Machine/State.lean ====
section
/-! DEFINITION. The state of the model. The BPU holds no architectural state (10_state R15): what stands here
is its interface, the values on its ports (R16, R17), and the state at power-up (70_reset R88, R89). -/

namespace Sys2Proof.Machine

/-- An input port of `w` bits: which of its bits the host drives with a defined 0 or 1, and their levels
(10_state R18). The level of a bit that is not driven means nothing and is held as 0 (log entry 3). -/
structure Port (w : Nat) where
  defined : BitVec w
  level : BitVec w
deriving DecidableEq, Repr

/-- A port the host does not drive. -/
def Port.undriven (w : Nat) : Port w := { defined := 0, level := 0 }

/-- The inputs of one transaction, every bit defined (10_state R16). -/
structure Inputs where
  cmd : Byte
  a : PortWord
  s : PortWord
deriving DecidableEq, Repr

/-- The outputs of one transaction (10_state R17). -/
structure Outputs where
  res : PortWord
  err : ErrCode
deriving DecidableEq, Repr

/-- The state: the three input ports (10_state R16) and the outputs `res` and `err` (R17). The outputs are one
field because they are those of one whole transaction (20_memory R29). `out = none` says that they are not
defined: the inputs have changed since, or were never driven (70_reset R89, R93; log entry 2). -/
structure State where
  cmd : Port 8
  a : Port 64
  s : Port 64
  out : Option Outputs
deriving DecidableEq, Repr

/-- The reasons for which the machine stops with a fault. THERE IS NONE: every error is an answer of its
transaction, no trap exists, and nothing fails for environmental reasons (60_exceptions R78, R80, R84). The
type therefore has no constructor (log entry 8). -/
inductive Fault
deriving DecidableEq, Repr

/-- The reasons for which a step has no meaning. -/
inductive Refusal where
  /-- Raised by an arm of `exec` whose instruction has no meaning yet (no arm is left so). Safe. -/
  | notModelled (mnemonic : String)
  /-- Raised by a step, and by every meaning, when some bit of `cmd`, `a` or `s` is not driven with a defined
  level: 10_state R18 gives such a transaction no meaning. Safe (log entry 3). -/
  | undrivenInput
deriving DecidableEq, Repr

/-- Power-up: the host drives nothing yet and the outputs are not defined (70_reset R89). There is nothing else
to reset (R88; log entry 4). -/
def State.reset : State :=
  { cmd := Port.undriven 8, a := Port.undriven 64, s := Port.undriven 64, out := none }

end Sys2Proof.Machine
end

