-- ==== Sys2Proof/Machine/Flags.lean ====
section
/-! DEFINITION. The status output `err`. It is the only status the BPU produces: no flag persists, and no
operation gives a carry, overflow, zero or sign flag (10_state R21; 40_rotate R66). -/

namespace Sys2Proof.Machine

/-- `err` of a successful transaction (60_exceptions R74, R81). -/
def noError : ErrCode := 0b00#2

/-- code(<Error>) (60_exceptions R74). -/
def errorCode : BpuError → ErrCode
  | .invalidShift => 0b01#2
  | .unsupportedWidth => 0b10#2
  | .illegalCommand => 0b11#2

end Sys2Proof.Machine
end

