-- ==== Sys2Proof/Machine/Operands.lean ====
section
/-! DEFINITION. The operands of a transaction: reading the ports (10_state R18), the word operand and the shift
amount (30_encoding R40, R41), bytes of a word (00_scope R11) and zero-extension (R9). -/

namespace Sys2Proof.Machine

/-- The value on a port, where every bit of it is defined (10_state R18). -/
def readPort {w : Nat} (p : Port w) : Option (BitVec w) :=
  if p.defined = BitVec.allOnes w then some p.level else none

/-- The inputs of the transaction on the ports, where every bit of every input port is defined; the model
asks for all of them, those the command does not read too (10_state R18). -/
def readInputs (s : State) : Option Inputs :=
  match readPort s.cmd with
  | none => none
  | some cmd =>
    match readPort s.a with
    | none => none
    | some a =>
      match readPort s.s with
      | none => none
      | some k => some { cmd := cmd, a := a, s := k }

/-- x = a[W-1:0]; the bits above are ignored (30_encoding R40). -/
def wordOperand (W : Nat) (a : PortWord) : BitVec W := a.setWidth W

/-- k = sint_64(s), the shift amount (30_encoding R41). -/
def shiftAmount (s : PortWord) : Int := s.toInt

/-- The shift amount is in range: 0 ≤ k < W (30_encoding R41). -/
def shiftInRange (W : Nat) (k : Int) : Bool := decide (0 ≤ k) && decide (k < W)

/-- zext_64 (00_scope R9). -/
def zext64 {W : Nat} (v : BitVec W) : PortWord := v.setWidth 64

/-- byte_k(v) = v[8k+7:8k]; byte 0 is the least significant (00_scope R11). -/
def byteOf {W : Nat} (k : Nat) (v : BitVec W) : Byte := v.extractLsb' (8 * k) 8

end Sys2Proof.Machine
end

