-- ==== Sys2Proof/Machine/Ops.lean ====
section
/-! DEFINITION. The shared operations: the shifts, rotations and byte reversal on values (00_scope R10;
40_rotate R51; 41_bswap R67), driving the ports, answering a transaction and raising an error (60_exceptions
R78), the two shapes of a command's meaning, and taking a command from the ports (R79). -/

namespace Sys2Proof.Machine

/-- `v << k`: the logical left shift, (uint(v) · 2^k) mod 2^W; 0 for k ≥ W (00_scope R10). -/
def shiftLeft {W : Nat} (v : BitVec W) (k : Nat) : BitVec W := BitVec.ofNat W (v.toNat * 2 ^ k)

/-- `v >> k`: the logical right shift, floor(uint(v) / 2^k); 0 for k ≥ W (00_scope R10). -/
def shiftRight {W : Nat} (v : BitVec W) (k : Nat) : BitVec W := BitVec.ofNat W (v.toNat / 2 ^ k)

/-- rol_W(x, k) = (x << k) | (x >> (W - k)) (40_rotate R51). -/
def rol {W : Nat} (x : BitVec W) (k : Nat) : BitVec W := shiftLeft x k ||| shiftRight x (W - k)

/-- ror_W(x, k) = (x >> k) | (x << (W - k)) (40_rotate R51). -/
def ror {W : Nat} (x : BitVec W) (k : Nat) : BitVec W := shiftRight x k ||| shiftLeft x (W - k)

/-- The bytes 0 .. m-1 of x, each put at the mirrored place n-1-k of a word of n = W/8 bytes. -/
def placeBytes {W : Nat} (x : BitVec W) : Nat → BitVec W
  | 0 => 0
  | k + 1 => placeBytes x k ||| shiftLeft ((byteOf k x).setWidth W) (8 * (W / 8 - 1 - k))

/-- bswap_W(x): byte k of the result is byte n-1-k of x, for a word of n = W/8 bytes (41_bswap R67), by the
explicit byte extraction and reassembly the source asks for. -/
def bswap {W : Nat} (x : BitVec W) : BitVec W := placeBytes x (W / 8)

/-- A port every bit of which the host drives. -/
def Port.drive {w : Nat} (v : BitVec w) : Port w := { defined := BitVec.allOnes w, level := v }

/-- The bits the host left undriven, driven with 0; the others as they are (log entry 5). -/
def Port.complete {w : Nat} (p : Port w) : Port w := Port.drive (p.level &&& p.defined)

/-- The host puts any levels, defined or not, on port `cmd`. The outputs are then not defined until the
transaction is answered (70_reset R89, R93; log entry 2). -/
def driveCmd (p : Port 8) (s : State) : State := { s with cmd := p, out := none }

/-- The host puts any levels, defined or not, on port `a` (70_reset R89, R93; log entry 2). -/
def driveA (p : Port 64) (s : State) : State := { s with a := p, out := none }

/-- The host puts any levels, defined or not, on port `s` (70_reset R89, R93; log entry 2). -/
def driveS (p : Port 64) (s : State) : State := { s with s := p, out := none }

/-- The host presents a transaction: it drives every bit of the three input ports (10_state R18). -/
def present (x : Inputs) (s : State) : State :=
  driveCmd (Port.drive x.cmd) (driveA (Port.drive x.a) (driveS (Port.drive x.s) s))

/-- The unit drives its outputs; the host holds the inputs (70_reset R93; log entry 1). -/
def driveOutputs (o : Outputs) (s : State) : State := { s with out := some o }

/-- A transaction that raises no error: `out.res <- v`, `out.err <- 0b00` (60_exceptions R81). -/
def answer (v : PortWord) (s : State) : Host.Outcome State Fault Refusal :=
  .next (driveOutputs { res := v, err := noError } s)

/-- `raise <Error>`: `out.err <- code(<Error>)` and `out.res <- 0`; nothing else happens, no trap is taken
(60_exceptions R78, R84). This is the one operation that takes an error; there is no return from one. -/
def raise (e : BpuError) (s : State) : Host.Outcome State Fault Refusal :=
  .next (driveOutputs { res := Config.errorResult, err := errorCode e } s)

/-- Run `f` on the inputs of the transaction; a transaction with an undriven input bit has no meaning
(10_state R18). -/
def onInputs (s : State) (f : Inputs → Host.Outcome State Fault Refusal) :
    Host.Outcome State Fault Refusal :=
  match readInputs s with
  | none => .refused .undrivenInput
  | some x => f x

/-- A rotate command of width W: the shift-range check, then the rotation `f` of the word operand
(40_rotate R53 to R61). -/
def rotateCommand (W : Nat) (f : BitVec W → Nat → BitVec W) (s : State) :
    Host.Outcome State Fault Refusal :=
  onInputs s fun x =>
    if shiftInRange W (shiftAmount x.s) then
      answer (zext64 (f (wordOperand W x.a) (shiftAmount x.s).toNat)) s
    else raise .invalidShift s

/-- A byte-swap command of width W: the reordering `f` of the word operand; `s` is not read (41_bswap R68 to R71). -/
def swapCommand (W : Nat) (f : BitVec W → BitVec W) (s : State) : Host.Outcome State Fault Refusal :=
  onInputs s fun x => answer (zext64 (f (wordOperand W x.a))) s

/-- Take the command on port `cmd` and run it: an unassigned byte raises its error, an assigned one runs by
`run` (60_exceptions R79, priorities 1 and 2). -/
def issue (run : Instr → State → Host.Outcome State Fault Refusal) (s : State) :
    Host.Outcome State Fault Refusal :=
  onInputs s fun x =>
    match decode x.cmd with
    | .error e => raise e s
    | .ok i => run i s

/-- The host drives the command byte `w`, and with 0 whatever bits of `a` and `s` it left undriven, so that a
whole transaction is on the ports (10_state R18; log entry 5). -/
def presentCommand (w : Byte) (s : State) : State :=
  driveCmd (Port.drive w) (driveA s.a.complete (driveS s.s.complete s))

end Sys2Proof.Machine
end

