-- ==== Sys2Proof/Machine/Bswap.lean ====
section
/-! DEFINITION. The meanings of the four byte-swap commands, each by its own rule's pseudocode (41_bswap R68 to
R71). -/

namespace Sys2Proof.Machine

/-- `bswap8 a`: `zext_64(x)` (41_bswap R68). -/
def execBswap8 (s : State) : Host.Outcome State Fault Refusal := swapCommand 8 (fun x => x) s

/-- `bswap16 a`: x[7:0], then x[15:8] below it (41_bswap R69). -/
def execBswap16 (s : State) : Host.Outcome State Fault Refusal :=
  swapCommand 16 (fun x => byteOf 0 x ++ byteOf 1 x) s

/-- `bswap32 a`: the four bytes, the least significant first (41_bswap R70). -/
def execBswap32 (s : State) : Host.Outcome State Fault Refusal :=
  swapCommand 32 (fun x => byteOf 0 x ++ byteOf 1 x ++ byteOf 2 x ++ byteOf 3 x) s

/-- `bswap64 a`: the eight bytes, the least significant first (41_bswap R71). -/
def execBswap64 (s : State) : Host.Outcome State Fault Refusal :=
  swapCommand 64 (fun x => byteOf 0 x ++ byteOf 1 x ++ byteOf 2 x ++ byteOf 3 x ++
    byteOf 4 x ++ byteOf 5 x ++ byteOf 6 x ++ byteOf 7 x) s

end Sys2Proof.Machine
end

