-- ==== Sys2Proof/Machine/Rotate.lean ====
section
/-! DEFINITION. The meanings of the eight rotate commands (40_rotate R54 to R61). -/

namespace Sys2Proof.Machine

/-- `rol8 a, s` (40_rotate R54). -/
def execRol8 (s : State) : Host.Outcome State Fault Refusal := rotateCommand 8 rol s

/-- `rol16 a, s` (40_rotate R55). -/
def execRol16 (s : State) : Host.Outcome State Fault Refusal := rotateCommand 16 rol s

/-- `rol32 a, s` (40_rotate R56). -/
def execRol32 (s : State) : Host.Outcome State Fault Refusal := rotateCommand 32 rol s

/-- `rol64 a, s` (40_rotate R57). -/
def execRol64 (s : State) : Host.Outcome State Fault Refusal := rotateCommand 64 rol s

/-- `ror8 a, s` (40_rotate R58). -/
def execRor8 (s : State) : Host.Outcome State Fault Refusal := rotateCommand 8 ror s

/-- `ror16 a, s` (40_rotate R59). -/
def execRor16 (s : State) : Host.Outcome State Fault Refusal := rotateCommand 16 ror s

/-- `ror32 a, s` (40_rotate R60). -/
def execRor32 (s : State) : Host.Outcome State Fault Refusal := rotateCommand 32 ror s

/-- `ror64 a, s` (40_rotate R61). -/
def execRor64 (s : State) : Host.Outcome State Fault Refusal := rotateCommand 64 ror s

end Sys2Proof.Machine
end

