-- ==== Sys2Proof/Machine/Dispatch.lean ====
section
/-! DEFINITION. One arm per command of 30_encoding R43: a direct call of its meaning. -/

namespace Sys2Proof.Machine

def exec (i : Instr) (s : State) : Host.Outcome State Fault Refusal :=
  match i with
  | .rol8 => Sys2Proof.Machine.execRol8 s
  | .ror8 => Sys2Proof.Machine.execRor8 s
  | .bswap8 => Sys2Proof.Machine.execBswap8 s
  | .rol16 => Sys2Proof.Machine.execRol16 s
  | .ror16 => Sys2Proof.Machine.execRor16 s
  | .bswap16 => Sys2Proof.Machine.execBswap16 s
  | .rol32 => Sys2Proof.Machine.execRol32 s
  | .ror32 => Sys2Proof.Machine.execRor32 s
  | .bswap32 => Sys2Proof.Machine.execBswap32 s
  | .rol64 => Sys2Proof.Machine.execRol64 s
  | .ror64 => Sys2Proof.Machine.execRor64 s
  | .bswap64 => Sys2Proof.Machine.execBswap64 s

end Sys2Proof.Machine
end

