-- ==== Sys2Proof/Machine/Step.lean ====
section
/-! DEFINITION. One step is one transaction: the one on the input ports (00_scope R2; 60_exceptions R79). -/

namespace Sys2Proof.Machine

/-- Answer the transaction on the ports. -/
def step (s : State) : Host.Outcome State Fault Refusal := issue exec s

/-- `s` with the command byte `w` driven on port `cmd`, which is where a step takes its command from; the bits
of `a` and `s` that were not driven are driven with 0, since a step needs a whole transaction on the ports
(10_state R18; log entry 5). -/
def State.withFetchWord (s : State) (nbits w : Nat) : State :=
  presentCommand (BitVec.ofNat 8 (w % 2 ^ nbits)) s

end Sys2Proof.Machine
end

