-- ==== Sys2Proof/Machine/Assembler.lean ====
section
/-! DEFINITION. The assembler syntax of 30_encoding R46 and R47: one line is one transaction. Points of the text
form the spec leaves open are in log entry 9. -/

namespace Sys2Proof.Machine

/-- The mnemonic of a command (30_encoding R43). -/
def mnemonic : Instr → String
  | .rol8 => "rol8"
  | .ror8 => "ror8"
  | .bswap8 => "bswap8"
  | .rol16 => "rol16"
  | .ror16 => "ror16"
  | .bswap16 => "bswap16"
  | .rol32 => "rol32"
  | .ror32 => "ror32"
  | .bswap32 => "bswap32"
  | .rol64 => "rol64"
  | .ror64 => "ror64"
  | .bswap64 => "bswap64"

/-- The width as the suffix of a name: the W of `rolW` (30_encoding R46). -/
def widthSuffix : Width → String
  | .w8 => "8"
  | .w16 => "16"
  | .w32 => "32"
  | .w64 => "64"

/-- The stems of the aliases of an operation (30_encoding R47). -/
def aliasStems : Operation → List String
  | .rol => ["rotate_left"]
  | .ror => ["rotate_right"]
  | .bswap => ["swap_endian", "swap_byte_order"]

/-- Every name of a command: its mnemonic, then its aliases (30_encoding R46, R47). -/
def namesOf (i : Instr) : List String :=
  mnemonic i :: (aliasStems i.operation).map (fun stem => stem ++ widthSuffix i.width)

/-- The command a name stands for (30_encoding R46, R47). -/
def instrOfName (name : String) : Option Instr := Instr.all.find? (fun i => (namesOf i).contains name)

/-- An operand of a line: a literal, or a host-side name for a value (30_encoding R46). -/
inductive AsmOperand where
  | literal (v : Int)
  | named (name : String)
deriving DecidableEq, Repr

/-- A line of assembly: the mnemonic and its operands (30_encoding R46). -/
structure AsmLine where
  name : String
  operands : List AsmOperand
deriving DecidableEq, Repr

/-- Why a line is no transaction. -/
inductive AsmError where
  /-- The mnemonic names no command. -/
  | unknownMnemonic
  /-- The operands are not those of the command's form. -/
  | wrongOperands
  /-- An operand is neither a literal nor a known name. -/
  | badOperand
  /-- The value does not fit the port (92 D4). -/
  | outOfRange
deriving DecidableEq, Repr

/-- The value of an operand, the names of the host at hand. -/
def operandValue (names : List (String × Int)) : AsmOperand → Except AsmError Int
  | .literal v => .ok v
  | .named n =>
    match names.lookup n with
    | some v => .ok v
    | none => .error .badOperand

/-- The pattern driven on port `a` for a value: the one that reads back as it, unsigned (00_scope R9). A value no
pattern stands for is refused. -/
def patternA (v : Int) : Except AsmError PortWord :=
  let p := BitVec.ofInt 64 v
  if (p.toNat : Int) = v then .ok p else .error .outOfRange

/-- The pattern driven on port `s` for a value: the one that reads back as it, signed (a negative value stands for
its two's-complement pattern, 30_encoding R46) or unsigned (log entry 9). -/
def patternS (v : Int) : Except AsmError PortWord :=
  let p := BitVec.ofInt 64 v
  if p.toInt = v ∨ (p.toNat : Int) = v then .ok p else .error .outOfRange

/-- The transaction of a rotate line, `rolW <a>, <s>` (30_encoding R46). -/
def assembleRotate (i : Instr) (names : List (String × Int)) (a s : AsmOperand) : Except AsmError Inputs :=
  match operandValue names a, operandValue names s with
  | .ok va, .ok vs =>
    match patternA va, patternS vs with
    | .ok pa, .ok ps => .ok { cmd := encode i, a := pa, s := ps }
    | .error e, _ => .error e
    | .ok _, .error e => .error e
  | .error e, _ => .error e
  | .ok _, .error e => .error e

/-- The transaction of a swap line, `bswapW <a>`: port `s` is driven with 0 (30_encoding R46). -/
def assembleSwap (i : Instr) (names : List (String × Int)) (a : AsmOperand) : Except AsmError Inputs :=
  match operandValue names a with
  | .error e => .error e
  | .ok va =>
    match patternA va with
    | .error e => .error e
    | .ok pa => .ok { cmd := encode i, a := pa, s := 0 }

/-- The transaction a line stands for. The mnemonic alone fixes `cmd` (30_encoding R46). -/
def assemble (names : List (String × Int)) (l : AsmLine) : Except AsmError Inputs :=
  match instrOfName l.name with
  | none => .error .unknownMnemonic
  | some i =>
    match i.operation, l.operands with
    | .bswap, [a] => assembleSwap i names a
    | .rol, [a, s] => assembleRotate i names a s
    | .ror, [a, s] => assembleRotate i names a s
    | _, _ => .error .wrongOperands

/-- The value of a digit in a base. -/
def digitValue (base : Nat) (c : Char) : Option Nat :=
  let v :=
    if '0' ≤ c ∧ c ≤ '9' then some (c.toNat - '0'.toNat)
    else if 'a' ≤ c ∧ c ≤ 'f' then some (c.toNat - 'a'.toNat + 10)
    else if 'A' ≤ c ∧ c ≤ 'F' then some (c.toNat - 'A'.toNat + 10)
    else none
  v.filter (· < base)

/-- The number a run of digits writes, most significant digit first (00_scope R9), after the digits already
read; none where a character is no digit. -/
def digitsFrom (base : Nat) : Nat → List Char → Option Nat
  | acc, [] => some acc
  | acc, c :: cs =>
    match digitValue base c with
    | none => none
    | some d => digitsFrom base (acc * base + d) cs

/-- At least one digit, then no other character. -/
def digits (base : Nat) (cs : List Char) : Option Nat :=
  if cs = [] then none else digitsFrom base 0 cs

/-- A literal without a sign: decimal, `0x` hex or `0b` binary (30_encoding R46). -/
def unsignedLiteral : List Char → Option Nat
  | '0' :: 'x' :: cs => digits 16 cs
  | '0' :: 'b' :: cs => digits 2 cs
  | cs => digits 10 cs

/-- A literal, with a minus sign or without (30_encoding R46). -/
def literalValue : List Char → Option Int
  | '-' :: cs => (unsignedLiteral cs).map (fun n => -(n : Int))
  | cs => (unsignedLiteral cs).map (fun n => (n : Int))

/-- The characters without the spaces at either end. -/
def trimSpaces (cs : List Char) : List Char :=
  ((cs.dropWhile (· == ' ')).reverse.dropWhile (· == ' ')).reverse

/-- An operand as written: a literal where it reads as one; else a name, which begins with no digit or sign
and is not empty. -/
def parseOperand (cs : List Char) : Except AsmError AsmOperand :=
  match literalValue cs with
  | some v => .ok (.literal v)
  | none =>
    match cs with
    | [] => .error .badOperand
    | c :: _ => if c == '-' || c.isDigit then .error .badOperand else .ok (.named (String.ofList cs))

/-- The operands of a line, each as written. -/
def parseOperands : List (List Char) → Except AsmError (List AsmOperand)
  | [] => .ok []
  | cs :: rest =>
    match parseOperand (trimSpaces cs), parseOperands rest with
    | .ok o, .ok os => .ok (o :: os)
    | .error e, _ => .error e
    | .ok _, .error e => .error e

/-- A line of text: the mnemonic, the operands with commas between them, and an optional comment after a
semicolon (30_encoding R46). -/
def parseLine (cs : List Char) : Except AsmError AsmLine :=
  let code := trimSpaces (cs.takeWhile (· != ';'))
  let name := code.takeWhile (· != ' ')
  let rest := trimSpaces (code.dropWhile (· != ' '))
  match parseOperands (if rest = [] then [] else rest.splitOn ',') with
  | .error e => .error e
  | .ok os => .ok { name := String.ofList name, operands := os }

/-- The transaction a line of text stands for. -/
def assembleText (names : List (String × Int)) (line : String) : Except AsmError Inputs :=
  match parseLine line.toList with
  | .error e => .error e
  | .ok l => assemble names l

end Sys2Proof.Machine
end

