-- ==== Sys2Proof/Machine/Platform.lean ====
section
/-! DEFINITION. Several instances of the unit side by side (60_exceptions R87). -/

namespace Sys2Proof.Machine

/-- The instances of a platform, each with its own ports. They share no state (60_exceptions R87). -/
abbrev Platform := List State

/-- Instance `n` of the platform answers the transaction on its ports. A number with no instance behind it
steps nothing. -/
def stepInstance (n : Nat) (p : Platform) : Host.Outcome Platform Fault Refusal :=
  match p[n]? with
  | none => .next p
  | some s =>
    match step s with
    | .next t => .next (p.set n t)
    | .fault r => .fault r
    | .refused r => .refused r

/-- Two instances, one after the other. -/
def stepInstances (m n : Nat) (p : Platform) : Host.Outcome Platform Fault Refusal :=
  match stepInstance m p with
  | .next q => stepInstance n q
  | .fault r => .fault r
  | .refused r => .refused r

end Sys2Proof.Machine
end

