-- ==== Sys2Proof/Machine/Bpu.lean ====
section
/-! DEFINITION. The function `BPU` of 10_state R24, line for line the pseudocode of 60_exceptions R79. The step
does not call it: that the step computes it is a statement about the model. -/

namespace Sys2Proof.Machine

/-- The outputs of a transaction that raises `e` (60_exceptions R78). -/
def raised (e : BpuError) : Outputs := { res := 0, err := errorCode e }

/-- `(out.res, out.err) = BPU(in.cmd, in.a, in.s)` (10_state R24; 60_exceptions R79). -/
def bpu (x : Inputs) : Outputs :=
  let fn := x.cmd.extractLsb' 0 2
  let wsel := x.cmd.extractLsb' 2 3
  let rsv := x.cmd.extractLsb' 5 3
  if rsv ≠ 0b000#3 ∨ fn = 0b11#2 then raised .illegalCommand
  else if 4 ≤ wsel.toNat then raised .unsupportedWidth
  else
    let W := 8 * 2 ^ wsel.toNat
    let v := x.a.setWidth W
    if fn = 0b10#2 then { res := (bswap v).setWidth 64, err := 0b00#2 }
    else
      let k := x.s.toInt
      if k < 0 ∨ (W : Int) ≤ k then raised .invalidShift
      else if fn = 0b00#2 then { res := (rol v k.toNat).setWidth 64, err := 0b00#2 }
      else { res := (ror v k.toNat).setWidth 64, err := 0b00#2 }

end Sys2Proof.Machine
end

