-- ==== Sys2Proof/Machine/Session.lean ====
section
/-! DEFINITION. The host's side of the ports: changing them, presenting transactions one after another and
sampling their outputs (00_scope R3; 30_encoding R49; 70_reset R92, R93). -/

namespace Sys2Proof.Machine

/-- What the host may do to one input port between two steps, its bits driven or not (10_state R18). -/
inductive HostMove where
  | cmd (p : Port 8)
  | a (p : Port 64)
  | s (p : Port 64)
deriving DecidableEq, Repr

/-- The state after a move of the host. -/
def hostMove : HostMove → State → State
  | .cmd p => driveCmd p
  | .a p => driveA p
  | .s p => driveS p

/-- The host presents a transaction and the unit answers it. -/
def transact (x : Inputs) (s : State) : Host.Outcome State Fault Refusal := step (present x s)

/-- What the host samples on `res` and `err` after a step; none where the step left no defined outputs. -/
def sampled : Host.Outcome State Fault Refusal → Option Outputs
  | .next t => t.out
  | .fault _ => none
  | .refused _ => none

/-- What the host samples when it presents the transactions of a list one after another, the state carried
along. After a transaction that gave no next state the host samples nothing more. -/
def session : List Inputs → State → List (Option Outputs)
  | [], _ => []
  | x :: xs, s =>
    match transact x s with
    | .next t => t.out :: session xs t
    | .fault _ => [none]
    | .refused _ => [none]

end Sys2Proof.Machine
end

