-- ==== Sys2Proof/Safety.lean ====
section
/-! DEFINITION. What a legal transaction and a sound state are, in the terms the statements use. -/

namespace Sys2Proof.Machine

/-- Some bit of some input port is not driven with a defined level: the transaction 10_state R18 refuses. -/
def State.hasUndrivenBit (s : State) : Prop :=
  (∃ i, i < 8 ∧ s.cmd.defined.getLsbD i = false) ∨
  (∃ i, i < 64 ∧ s.a.defined.getLsbD i = false) ∨
  (∃ i, i < 64 ∧ s.s.defined.getLsbD i = false)

/-- A bit that is not driven has no level: it is held as 0 (log entry 3). -/
def Port.canonical {w : Nat} (p : Port w) : Prop := p.level &&& ~~~p.defined = 0

/-- The three input ports are in their canonical form. -/
def State.portsCanonical (s : State) : Prop := s.cmd.canonical ∧ s.a.canonical ∧ s.s.canonical

/-- The outputs, where defined, are the function BPU of the inputs now on the ports (10_state R24; 70_reset R89). -/
def State.outputsSound (s : State) : Prop :=
  ∀ o, s.out = some o → ∃ x, readInputs s = some x ∧ o = bpu x

/-- The invariant of the model. -/
def State.sound (s : State) : Prop := s.portsCanonical ∧ s.outputsSound

/-- The number of set bits of a word (40_rotate R65). -/
def setBits {W : Nat} (x : BitVec W) : Nat := ((List.range W).filter (fun i => x.getLsbD i)).length

/-- The bytes of a word, the least significant first (00_scope R11). -/
def bytesOf {W : Nat} (x : BitVec W) : List Byte := (List.range (W / 8)).map (fun k => byteOf k x)

/-- A move of the host keeps the ports canonical. -/
def HostMove.canonical : HostMove → Prop
  | .cmd p => p.canonical
  | .a p => p.canonical
  | .s p => p.canonical

end Sys2Proof.Machine
end

