-- ==== Sys2Proof/Certificates/Slice0/Obligations.lean ====
section
/-! DEFINITION. The statements for the provers. Each docstring names the rule of spec/ it formalises. A state of
the model is written `st`, the inputs on its ports `x`; `readInputs st = some x` says that the host drives every
bit of the three input ports (10_state R18). -/

open Sys2Proof Sys2Proof.Machine

/-- 40_rotate R54, `rol8` (command 0x00): for 0 ≤ k < 8 it completes with the word rotated left by k, zero-extended, and
`err` = 0b00; for every other shift amount it raises InvalidShift. Nothing but the outputs changes. -/
def Obligations.RotateLeft8Result : Prop :=
  decode 0x00#8 = .ok .rol8 ∧
  ∀ (st : State) (x : Inputs), readInputs st = some x →
    (∀ k : Nat, k < 8 → x.s.toInt = k →
      exec .rol8 st = .next { st with out := some {
        res := (((x.a.setWidth 8) <<< k) ||| ((x.a.setWidth 8) >>> (8 - k))).setWidth 64,
        err := 0b00#2 } }) ∧
    (x.s.toInt < 0 ∨ 8 ≤ x.s.toInt →
      exec .rol8 st = .next { st with out := some { res := 0, err := 0b01#2 } })

/-- 40_rotate R55, `rol16` (command 0x04): for 0 ≤ k < 16 it completes with the word rotated left by k, zero-extended, and
`err` = 0b00; for every other shift amount it raises InvalidShift. Nothing but the outputs changes. -/
def Obligations.RotateLeft16Result : Prop :=
  decode 0x04#8 = .ok .rol16 ∧
  ∀ (st : State) (x : Inputs), readInputs st = some x →
    (∀ k : Nat, k < 16 → x.s.toInt = k →
      exec .rol16 st = .next { st with out := some {
        res := (((x.a.setWidth 16) <<< k) ||| ((x.a.setWidth 16) >>> (16 - k))).setWidth 64,
        err := 0b00#2 } }) ∧
    (x.s.toInt < 0 ∨ 16 ≤ x.s.toInt →
      exec .rol16 st = .next { st with out := some { res := 0, err := 0b01#2 } })

/-- 40_rotate R56, `rol32` (command 0x08): for 0 ≤ k < 32 it completes with the word rotated left by k, zero-extended, and
`err` = 0b00; for every other shift amount it raises InvalidShift. Nothing but the outputs changes. -/
def Obligations.RotateLeft32Result : Prop :=
  decode 0x08#8 = .ok .rol32 ∧
  ∀ (st : State) (x : Inputs), readInputs st = some x →
    (∀ k : Nat, k < 32 → x.s.toInt = k →
      exec .rol32 st = .next { st with out := some {
        res := (((x.a.setWidth 32) <<< k) ||| ((x.a.setWidth 32) >>> (32 - k))).setWidth 64,
        err := 0b00#2 } }) ∧
    (x.s.toInt < 0 ∨ 32 ≤ x.s.toInt →
      exec .rol32 st = .next { st with out := some { res := 0, err := 0b01#2 } })

/-- 40_rotate R57, `rol64` (command 0x0C): for 0 ≤ k < 64 it completes with the word rotated left by k, zero-extended, and
`err` = 0b00; for every other shift amount it raises InvalidShift. Nothing but the outputs changes. -/
def Obligations.RotateLeft64Result : Prop :=
  decode 0x0C#8 = .ok .rol64 ∧
  ∀ (st : State) (x : Inputs), readInputs st = some x →
    (∀ k : Nat, k < 64 → x.s.toInt = k →
      exec .rol64 st = .next { st with out := some {
        res := ((x.a <<< k) ||| (x.a >>> (64 - k))),
        err := 0b00#2 } }) ∧
    (x.s.toInt < 0 ∨ 64 ≤ x.s.toInt →
      exec .rol64 st = .next { st with out := some { res := 0, err := 0b01#2 } })

/-- 40_rotate R58, `ror8` (command 0x01): for 0 ≤ k < 8 it completes with the word rotated right by k, zero-extended, and
`err` = 0b00; for every other shift amount it raises InvalidShift. Nothing but the outputs changes. -/
def Obligations.RotateRight8Result : Prop :=
  decode 0x01#8 = .ok .ror8 ∧
  ∀ (st : State) (x : Inputs), readInputs st = some x →
    (∀ k : Nat, k < 8 → x.s.toInt = k →
      exec .ror8 st = .next { st with out := some {
        res := (((x.a.setWidth 8) >>> k) ||| ((x.a.setWidth 8) <<< (8 - k))).setWidth 64,
        err := 0b00#2 } }) ∧
    (x.s.toInt < 0 ∨ 8 ≤ x.s.toInt →
      exec .ror8 st = .next { st with out := some { res := 0, err := 0b01#2 } })

/-- 40_rotate R59, `ror16` (command 0x05): for 0 ≤ k < 16 it completes with the word rotated right by k, zero-extended, and
`err` = 0b00; for every other shift amount it raises InvalidShift. Nothing but the outputs changes. -/
def Obligations.RotateRight16Result : Prop :=
  decode 0x05#8 = .ok .ror16 ∧
  ∀ (st : State) (x : Inputs), readInputs st = some x →
    (∀ k : Nat, k < 16 → x.s.toInt = k →
      exec .ror16 st = .next { st with out := some {
        res := (((x.a.setWidth 16) >>> k) ||| ((x.a.setWidth 16) <<< (16 - k))).setWidth 64,
        err := 0b00#2 } }) ∧
    (x.s.toInt < 0 ∨ 16 ≤ x.s.toInt →
      exec .ror16 st = .next { st with out := some { res := 0, err := 0b01#2 } })

/-- 40_rotate R60, `ror32` (command 0x09): for 0 ≤ k < 32 it completes with the word rotated right by k, zero-extended, and
`err` = 0b00; for every other shift amount it raises InvalidShift. Nothing but the outputs changes. -/
def Obligations.RotateRight32Result : Prop :=
  decode 0x09#8 = .ok .ror32 ∧
  ∀ (st : State) (x : Inputs), readInputs st = some x →
    (∀ k : Nat, k < 32 → x.s.toInt = k →
      exec .ror32 st = .next { st with out := some {
        res := (((x.a.setWidth 32) >>> k) ||| ((x.a.setWidth 32) <<< (32 - k))).setWidth 64,
        err := 0b00#2 } }) ∧
    (x.s.toInt < 0 ∨ 32 ≤ x.s.toInt →
      exec .ror32 st = .next { st with out := some { res := 0, err := 0b01#2 } })

/-- 40_rotate R61, `ror64` (command 0x0D): for 0 ≤ k < 64 it completes with the word rotated right by k, zero-extended, and
`err` = 0b00; for every other shift amount it raises InvalidShift. Nothing but the outputs changes. -/
def Obligations.RotateRight64Result : Prop :=
  decode 0x0D#8 = .ok .ror64 ∧
  ∀ (st : State) (x : Inputs), readInputs st = some x →
    (∀ k : Nat, k < 64 → x.s.toInt = k →
      exec .ror64 st = .next { st with out := some {
        res := ((x.a >>> k) ||| (x.a <<< (64 - k))),
        err := 0b00#2 } }) ∧
    (x.s.toInt < 0 ∨ 64 ≤ x.s.toInt →
      exec .ror64 st = .next { st with out := some { res := 0, err := 0b01#2 } })

/-- 41_bswap R68, `bswap8` (command 0x02): it completes for every `a` and every `s`, with the 1 low byte of `a` in reverse
order, zero-extended, and `err` = 0b00. Nothing but the outputs changes. -/
def Obligations.ByteSwap8Result : Prop :=
  decode 0x02#8 = .ok .bswap8 ∧
  ∀ (st : State) (x : Inputs), readInputs st = some x →
    exec .bswap8 st = .next { st with out := some {
      res := (x.a.extractLsb' 0 8).setWidth 64,
      err := 0b00#2 } }

/-- 41_bswap R69, `bswap16` (command 0x06): it completes for every `a` and every `s`, with the 2 low bytes of `a` in reverse
order, zero-extended, and `err` = 0b00. Nothing but the outputs changes. -/
def Obligations.ByteSwap16Result : Prop :=
  decode 0x06#8 = .ok .bswap16 ∧
  ∀ (st : State) (x : Inputs), readInputs st = some x →
    exec .bswap16 st = .next { st with out := some {
      res := (x.a.extractLsb' 0 8 ++ x.a.extractLsb' 8 8).setWidth 64,
      err := 0b00#2 } }

/-- 41_bswap R70, `bswap32` (command 0x0A): it completes for every `a` and every `s`, with the 4 low bytes of `a` in reverse
order, zero-extended, and `err` = 0b00. Nothing but the outputs changes. -/
def Obligations.ByteSwap32Result : Prop :=
  decode 0x0A#8 = .ok .bswap32 ∧
  ∀ (st : State) (x : Inputs), readInputs st = some x →
    exec .bswap32 st = .next { st with out := some {
      res := (x.a.extractLsb' 0 8 ++ x.a.extractLsb' 8 8 ++ x.a.extractLsb' 16 8 ++ x.a.extractLsb' 24 8).setWidth 64,
      err := 0b00#2 } }

/-- 41_bswap R71, `bswap64` (command 0x0E): it completes for every `a` and every `s`, with the 8 low bytes of `a` in reverse
order, zero-extended, and `err` = 0b00. Nothing but the outputs changes. -/
def Obligations.ByteSwap64Result : Prop :=
  decode 0x0E#8 = .ok .bswap64 ∧
  ∀ (st : State) (x : Inputs), readInputs st = some x →
    exec .bswap64 st = .next { st with out := some {
      res := x.a.extractLsb' 0 8 ++ x.a.extractLsb' 8 8 ++ x.a.extractLsb' 16 8 ++ x.a.extractLsb' 24 8 ++
          x.a.extractLsb' 32 8 ++ x.a.extractLsb' 40 8 ++ x.a.extractLsb' 48 8 ++ x.a.extractLsb' 56 8,
      err := 0b00#2 } }

/-- 40_rotate R52 (the spec's own inference): the rotations bit by bit, and where bit i of x goes. -/
def Obligations.RotationMovesBits : Prop :=
  ∀ (W : Nat) (x : BitVec W) (k i : Nat), k < W → i < W →
    (rol x k).getLsbD i = x.getLsbD (((i : Int) - k) % W).toNat ∧
    (ror x k).getLsbD i = x.getLsbD (((i : Int) + k) % W).toNat ∧
    (rol x k).getLsbD (((i : Int) + k) % W).toNat = x.getLsbD i ∧
    (ror x k).getLsbD (((i : Int) - k) % W).toNat = x.getLsbD i

/-- 40_rotate R62: rotation is invertible, either way round (the mirror law is the spec's own inference). -/
def Obligations.RotationUndone : Prop :=
  ∀ (W : Nat) (x : BitVec W) (k : Nat), k < W → ror (rol x k) k = x ∧ rol (ror x k) k = x

/-- 40_rotate R62 and 70_reset R92 at the ports: the host presents a rotation, samples `res`, presents it with the opposite
rotation by the same amount, and samples the word it began with. -/
def Obligations.RotationUndoneAtPorts : Prop :=
  ∀ (w : Width) (st : State) (a sh : PortWord), 0 ≤ sh.toInt → sh.toInt < w.bits →
    (∃ (r : PortWord) (t : State),
      transact { cmd := encode (Instr.of .rol w), a := a, s := sh } st = .next t ∧
      t.out = some { res := r, err := 0b00#2 } ∧
      sampled (transact { cmd := encode (Instr.of .ror w), a := r, s := sh } t) =
        some { res := (a.setWidth w.bits).setWidth 64, err := 0b00#2 }) ∧
    (∃ (r : PortWord) (t : State),
      transact { cmd := encode (Instr.of .ror w), a := a, s := sh } st = .next t ∧
      t.out = some { res := r, err := 0b00#2 } ∧
      sampled (transact { cmd := encode (Instr.of .rol w), a := r, s := sh } t) =
        some { res := (a.setWidth w.bits).setWidth 64, err := 0b00#2 })

/-- 40_rotate R63: a rotation by 0 is the identity, on words and at the ports. -/
def Obligations.RotationByZeroIsIdentity : Prop :=
  (∀ (W : Nat) (x : BitVec W), rol x 0 = x ∧ ror x 0 = x) ∧
  ∀ (op : Operation) (w : Width) (st : State) (x : Inputs),
    op ≠ .bswap → readInputs st = some x → x.s = 0 →
      exec (Instr.of op w) st = .next { st with out := some {
        res := (x.a.setWidth w.bits).setWidth 64, err := 0b00#2 } }

/-- 40_rotate R64 (for ror the spec's own inference): rotations compose where the amounts add up to less than W; a larger sum is out of range at the
ports, and the host reduces it by W. -/
def Obligations.RotationsCompose : Prop :=
  (∀ (W : Nat) (x : BitVec W) (k1 k2 : Nat), k1 + k2 < W →
    rol (rol x k1) k2 = rol x (k1 + k2) ∧ ror (ror x k1) k2 = ror x (k1 + k2)) ∧
  (∀ (W : Nat) (x : BitVec W) (k1 k2 : Nat), k1 < W → k2 < W → W ≤ k1 + k2 →
    rol (rol x k1) k2 = rol x (k1 + k2 - W) ∧ ror (ror x k1) k2 = ror x (k1 + k2 - W)) ∧
  ∀ (op : Operation) (w : Width) (st : State) (x : Inputs) (k1 k2 : Nat),
    op ≠ .bswap → readInputs st = some x → x.s.toInt = k1 + k2 → w.bits ≤ k1 + k2 →
      exec (Instr.of op w) st = .next { st with out := some { res := 0, err := 0b01#2 } }

/-- 40_rotate R65 (the spec's own inference): left and right rotations are mirror images, W - 0 = W is out of range at the ports, and a rotation
keeps the number of set bits. -/
def Obligations.RotationsMirror : Prop :=
  (∀ (W : Nat) (x : BitVec W) (k : Nat), 0 < k → k < W →
    ror x k = rol x (W - k) ∧ rol x k = ror x (W - k)) ∧
  (∀ (op : Operation) (w : Width) (st : State) (x : Inputs),
    op ≠ .bswap → readInputs st = some x → x.s.toInt = w.bits →
      exec (Instr.of op w) st = .next { st with out := some { res := 0, err := 0b01#2 } }) ∧
  (∀ (W : Nat) (x : BitVec W) (k : Nat), k < W →
    setBits (rol x k) = setBits x ∧ setBits (ror x k) = setBits x)

/-- 41_bswap R67: byte k of the result is byte n-1-k of the word, and no bit changes its place inside its byte. -/
def Obligations.SwapReversesBytes : Prop :=
  ∀ (n : Nat) (x : BitVec (8 * n)) (k : Nat), k < n →
    byteOf k (bswap x) = byteOf (n - 1 - k) x ∧
    ∀ b, b < 8 → (bswap x).getLsbD (8 * (n - 1 - k) + b) = x.getLsbD (8 * k + b)

/-- 41_bswap R72: the swap is an involution, on words of any number of bytes and at the ports, whatever is on `s`. -/
def Obligations.SwapUndone : Prop :=
  (∀ (n : Nat) (x : BitVec (8 * n)), bswap (bswap x) = x) ∧
  ∀ (w : Width) (st : State) (a sh sh' : PortWord), ∃ (r : PortWord) (t : State),
    transact { cmd := encode (Instr.of .bswap w), a := a, s := sh } st = .next t ∧
    t.out = some { res := r, err := 0b00#2 } ∧
    sampled (transact { cmd := encode (Instr.of .bswap w), a := r, s := sh' } t) =
      some { res := (a.setWidth w.bits).setWidth 64, err := 0b00#2 }

/-- 41_bswap R73 (the spec's own inference): the swap beside the rotations. -/
def Obligations.SwapAgainstRotations : Prop :=
  (∀ x : BitVec 8, bswap x = x) ∧
  (∀ x : BitVec 16, bswap x = rol x 8 ∧ bswap x = ror x 8) ∧
  bswap 0x12345678#32 = 0x78563412#32 ∧
  (∀ k, k < 32 → rol 0x12345678#32 k ≠ 0x78563412#32) ∧
  (∃ x : BitVec 64, ∀ k, k < 64 → rol x k ≠ bswap x) ∧
  (∀ (n : Nat) (x : BitVec (8 * n)), (bytesOf (bswap x)).Perm (bytesOf x)) ∧
  (∀ (n : Nat) (x : BitVec (8 * n)), setBits (bswap x) = setBits x)

/-- 40_rotate R53: a rotate command with its shift amount outside [0, W) raises InvalidShift; it does not rotate, reduce
or mask. -/
def Obligations.OutOfRangeShiftRejected : Prop :=
  ∀ (op : Operation) (w : Width) (st : State) (x : Inputs),
    op ≠ .bswap → readInputs st = some x → (x.s.toInt < 0 ∨ (w.bits : Int) ≤ x.s.toInt) →
      exec (Instr.of op w) st = .next { st with out := some { res := 0, err := 0b01#2 } }

/-- 60_exceptions R75: a transaction reports InvalidShift exactly when it is a rotate of a supported width whose shift amount
lies outside [0, W). -/
def Obligations.InvalidShiftExactly : Prop :=
  ∀ (st t : State) (x : Inputs) (o : Outputs),
    readInputs st = some x → step st = .next t → t.out = some o →
      (o.err = 0b01#2 ↔
        x.cmd.extractLsb' 5 3 = 0b000#3 ∧
        (x.cmd.extractLsb' 0 2 = 0b00#2 ∨ x.cmd.extractLsb' 0 2 = 0b01#2) ∧
        (x.cmd.extractLsb' 2 3).toNat < 4 ∧
        (x.s.toInt < 0 ∨ ((8 * 2 ^ (x.cmd.extractLsb' 2 3).toNat : Nat) : Int) ≤ x.s.toInt))

/-- 60_exceptions R76: a transaction reports UnsupportedWidth exactly for the twelve bytes with `rsv` 0, an assigned `fn` and
`wsel` 4 or more, whatever the operands. -/
def Obligations.UnsupportedWidthExactly : Prop :=
  ∀ (st t : State) (x : Inputs) (o : Outputs),
    readInputs st = some x → step st = .next t → t.out = some o →
      (o.err = 0b10#2 ↔
        x.cmd.extractLsb' 5 3 = 0b000#3 ∧ x.cmd.extractLsb' 0 2 ≠ 0b11#2 ∧
        4 ≤ (x.cmd.extractLsb' 2 3).toNat) ∧
      (o.err = 0b10#2 ↔ x.cmd ∈ [0x10#8, 0x11#8, 0x12#8, 0x14#8, 0x15#8, 0x16#8,
        0x18#8, 0x19#8, 0x1A#8, 0x1C#8, 0x1D#8, 0x1E#8])

/-- 60_exceptions R77: a transaction reports IllegalCommand exactly for the bytes with a reserved bit set (`rsv` ≠ 0: 0x20
and above) and the eight with `rsv` 0 and `fn` 0b11, whatever the operands. -/
def Obligations.IllegalCommandExactly : Prop :=
  ∀ (st t : State) (x : Inputs) (o : Outputs),
    readInputs st = some x → step st = .next t → t.out = some o →
      (o.err = 0b11#2 ↔
        x.cmd.extractLsb' 5 3 ≠ 0b000#3 ∨ x.cmd.extractLsb' 0 2 = 0b11#2) ∧
      (o.err = 0b11#2 ↔ 0x20 ≤ x.cmd.toNat ∨ x.cmd ∈ [0x03#8, 0x07#8, 0x0B#8, 0x0F#8,
        0x13#8, 0x17#8, 0x1B#8, 0x1F#8])

/-- 30_encoding R44: over the 256 command bytes, whatever the operands and the state before, 232 report IllegalCommand,
12 UnsupportedWidth, and the other 12 neither. -/
def Obligations.CommandBytesCounted : Prop :=
  ∀ (a sh : PortWord) (st : State),
    let errs := (List.range 256).map (fun b =>
      (sampled (transact { cmd := BitVec.ofNat 8 b, a := a, s := sh } st)).map Outputs.err)
    errs.count (some 0b11#2) = 232 ∧ errs.count (some 0b10#2) = 12 ∧
    errs.count (some 0b00#2) + errs.count (some 0b01#2) = 12

/-- 30_encoding R38: a command with a reserved bit set raises IllegalCommand whatever its other fields and the operands
hold. -/
def Obligations.ReservedBitsNotIgnored : Prop :=
  ∀ (st : State) (x : Inputs), readInputs st = some x →
    (∃ i, 5 ≤ i ∧ x.cmd.getLsbD i = true) →
      step st = .next { st with out := some { res := 0, err := 0b11#2 } }

/-- 60_exceptions R78: an error gives its code and `res` = 0, changes nothing else, and no later transaction can tell that
it happened. -/
def Obligations.ErrorLeavesNothingBehind : Prop :=
  ∀ (st t : State) (o : Outputs), step st = .next t → t.out = some o → o.err ≠ 0b00#2 →
    o.res = 0 ∧ (∃ e : BpuError, o.err = errorCode e) ∧ t = { st with out := some o } ∧
    ∀ y : Inputs, transact y t = transact y st

/-- 60_exceptions R81 (the spec's own inference): `err` = 0b00 says that the command was assigned and `res` is its result; 0 may be one. -/
def Obligations.SuccessIsTheResult : Prop :=
  (∀ (st t : State) (x : Inputs) (o : Outputs),
    readInputs st = some x → step st = .next t → t.out = some o → o.err = 0b00#2 →
      ∃ i : Instr, decode x.cmd = .ok i ∧ exec i st = .next t ∧
        (i.operation ≠ .bswap → 0 ≤ x.s.toInt ∧ x.s.toInt < i.width.bits) ∧
        (i.operation = .rol →
          o.res = (rol (x.a.setWidth i.width.bits) x.s.toInt.toNat).setWidth 64) ∧
        (i.operation = .ror →
          o.res = (ror (x.a.setWidth i.width.bits) x.s.toInt.toNat).setWidth 64) ∧
        (i.operation = .bswap → o.res = (bswap (x.a.setWidth i.width.bits)).setWidth 64)) ∧
  ∀ st : State, readInputs st = some { cmd := 0x08#8, a := 0, s := 5 } →
    step st = .next { st with out := some { res := 0, err := 0b00#2 } }

/-- 60_exceptions R79, the headline of the model: whenever the host drives every input bit, a step of the machine (decoder,
dispatch and the twelve meanings) gives exactly the outputs of the pseudocode of R79 and changes nothing else. -/
def Obligations.StepComputesBpu : Prop :=
  ∀ (st : State) (x : Inputs), readInputs st = some x →
    step st = .next { st with out := some (bpu x) }

/-- 10_state R24 (the spec's own inference): equal inputs give equal outputs, whenever they are presented and whatever else the states hold. -/
def Obligations.EqualInputsEqualOutputs : Prop :=
  ∀ (st st' : State) (x : Inputs), readInputs st = some x → readInputs st' = some x →
    ∃ o : Outputs, step st = .next { st with out := some o } ∧
      step st' = .next { st' with out := some o }

/-- 10_state R18: a transaction with any undriven input bit is refused, by the step and by every command's meaning, and
no other is. -/
def Obligations.UndrivenInputRefused : Prop :=
  ∀ st : State,
    (st.hasUndrivenBit ↔ step st = .refused .undrivenInput) ∧
    ∀ i : Instr, st.hasUndrivenBit ↔ exec i st = .refused .undrivenInput

/-- 30_encoding R45: every one of the 256 command bytes has exactly one outcome, an answer, in every state whose input bits
are all driven; so has every command. -/
def Obligations.DrivenInputAnswered : Prop :=
  ∀ st : State, ¬ st.hasUndrivenBit →
    (∃ o : Outputs, step st = .next { st with out := some o }) ∧
    ∀ i : Instr, ∃ o : Outputs, exec i st = .next { st with out := some o }

/-- 30_encoding R40: the bits of `a` above the command's width change no output. -/
def Obligations.UpperBitsIgnored : Prop :=
  ∀ (op : Operation) (w : Width) (st st' : State) (a a' sh : PortWord),
    (∀ i, i < w.bits → a.getLsbD i = a'.getLsbD i) →
      sampled (transact { cmd := encode (Instr.of op w), a := a, s := sh } st) =
      sampled (transact { cmd := encode (Instr.of op w), a := a', s := sh } st')

/-- 30_encoding R41 and 60_exceptions R75: `bswap` does not read `s` and never raises InvalidShift. -/
def Obligations.SwapIgnoresShift : Prop :=
  ∀ (w : Width) (st st' : State) (a sh sh' : PortWord),
    sampled (transact { cmd := encode (Instr.of .bswap w), a := a, s := sh } st) =
      sampled (transact { cmd := encode (Instr.of .bswap w), a := a, s := sh' } st') ∧
    ∃ r : PortWord, sampled (transact { cmd := encode (Instr.of .bswap w), a := a, s := sh } st) =
      some { res := r, err := 0b00#2 }

/-- 10_state R17 and 20_memory R28: bits 63..W of `res` are 0, and all of `res` is on an error. -/
def Obligations.ResultZeroExtended : Prop :=
  ∀ (st t : State) (x : Inputs) (o : Outputs),
    readInputs st = some x → step st = .next t → t.out = some o →
      (o.err ≠ 0b00#2 → o.res = 0) ∧
      ∀ i, 8 * 2 ^ (x.cmd.extractLsb' 2 3).toNat ≤ i → o.res.getLsbD i = false

/-- 70_reset R88 and R89: at power-up the host drives nothing, the outputs are not defined, and the model admits no
transaction. (That the state of the model at reset is this one is deduced: log entry 4.) -/
def Obligations.ResetAdmitsNoTransaction : Prop :=
  (∀ i, State.reset.cmd.defined.getLsbD i = false ∧ State.reset.a.defined.getLsbD i = false ∧
    State.reset.s.defined.getLsbD i = false) ∧
  State.reset.out = none ∧ step State.reset = .refused .undrivenInput

/-- 70_reset R90 (the spec's own inference): the first transaction after power-up behaves like every other. -/
def Obligations.FirstTransactionLikeEveryOther : Prop :=
  ∀ (x : Inputs) (st : State),
    transact x State.reset = transact x st ∧ sampled (transact x State.reset) = some (bpu x)

/-- Every step keeps the invariant of the model: the outputs, where defined, are the function BPU of the inputs on the
ports (10_state R24, 70_reset R89), and the ports are in canonical form. Two parts are the model's and not the spec's: that
an undriven bit's level is held as 0 (canonical form, DESIGN CHOICE, log entry 3), and when the outputs count as defined
(`out`, DEDUCED, log entry 2). -/
def Obligations.StepKeepsSound : Prop :=
  ∀ st t : State, st.sound → step st = .next t → t.sound

/-- The invariant of StepKeepsSound holds at reset. The state at reset is the model's, deduced from 70_reset R88 and R89
(log entry 4); the canonical form of a port is the model's choice (log entry 3), and so is the form of the outputs that
are not defined (DEDUCED, log entry 2). -/
def Obligations.ResetSound : Prop := State.reset.sound

/-- The invariant of StepKeepsSound is kept by every canonical move of the host on an input port between steps, its bits
driven or not: stale outputs are never taken for those of the new inputs (70_reset R93). That a move puts a port in
canonical form (an undriven bit's level is held as 0) is the model's choice of a port's form (DESIGN CHOICE, log entry 3),
and that it ends the validity of the outputs is deduced (log entry 2). -/
def Obligations.HostMovesKeepSound : Prop :=
  ∀ (m : HostMove) (st : State), m.canonical → st.sound → (hostMove m st).sound

/-- 70_reset R89: after any step from ANY state the outputs are defined and are BPU of the inputs on the ports. -/
def Obligations.StepSettlesOutputs : Prop :=
  ∀ st t : State, step st = .next t →
    ∃ x : Inputs, readInputs t = some x ∧ t.out = some (bpu x)

/-- Frame, 20_memory R28 and R29: a command, and a step, writes the outputs and leaves the three input ports as they were
(the host holds them: log entry 1); it writes `out` and no other field. -/
def Obligations.OnlyOutputsChange : Prop :=
  (∀ (i : Instr) (st t : State), exec i st = .next t →
    t.cmd = st.cmd ∧ t.a = st.a ∧ t.s = st.s ∧ ∃ o, t = { st with out := some o }) ∧
  ∀ st t : State, step st = .next t →
    t.cmd = st.cmd ∧ t.a = st.a ∧ t.s = st.s ∧ ∃ o, t = { st with out := some o }

/-- 00_scope R2, 60_exceptions R79: a step runs the command the byte on port `cmd` decodes to; a byte that decodes to none
raises its error. Nothing is added around it. -/
def Obligations.StepRunsDecodedCommand : Prop :=
  ∀ (st : State) (x : Inputs), readInputs st = some x →
    (∀ i : Instr, decode x.cmd = .ok i → step st = exec i st) ∧
    ∀ e : BpuError, decode x.cmd = .error e →
      step st = .next { st with out := some { res := 0, err := errorCode e } }

/-- 30_encoding R43: a command the host presents is the one the next step runs. The clauses about withFetchWord (the next
step runs its command, no input bit is undriven after it) are the model's choice, not the spec's: it stands for the host
and drives with 0 the bits of `a` and `s` left undriven (DESIGN CHOICE, unsafe, log entry 5). -/
def Obligations.PresentedCommandRuns : Prop :=
  (∀ (i : Instr) (a sh : PortWord) (st : State),
    transact { cmd := encode i, a := a, s := sh } st =
      exec i (present { cmd := encode i, a := a, s := sh } st)) ∧
  ∀ (i : Instr) (st : State),
    step (st.withFetchWord 8 (encode i).toNat) = exec i (st.withFetchWord 8 (encode i).toNat) ∧
    ¬ (st.withFetchWord 8 (encode i).toNat).hasUndrivenBit

/-- 20_memory R29: a transaction is atomic and idempotent: answered again it gives the same state, and no port has a read
side effect. -/
def Obligations.TransactionIdempotent : Prop :=
  ∀ st t : State, step st = .next t →
    step t = .next t ∧ t.cmd = st.cmd ∧ t.a = st.a ∧ t.s = st.s ∧
    ∀ st' : State, readInputs st' = readInputs st → sampled (step st') = sampled (step st)

/-- 10_state R21, 70_reset R92: no transaction reads what an earlier one left on the outputs. -/
def Obligations.OldOutputsNotRead : Prop :=
  (∀ (st : State) (o : Option Outputs) (t : State), step st = .next t →
    step { st with out := o } = .next t) ∧
  ∀ (i : Instr) (st : State) (o : Option Outputs) (t : State), exec i st = .next t →
    exec i { st with out := o } = .next t

/-- 10_state R15, 20_memory R31: whatever the state before, a sequence of transactions gives the outputs that each of them
gives alone. -/
def Obligations.SessionOutputsIndependent : Prop :=
  ∀ (xs : List Inputs) (st : State), session xs st = xs.map (fun x => some (bpu x))

/-- 60_exceptions R87: instances share no state: a transaction of one leaves every other as it was, and two instances may be
taken in either order. The form of the platform is the model's choice (DESIGN CHOICE, log entry 10): a list of states
stepped one at a time, a refusal of one instance reported as the platform's, and a place with no instance behind it
stepping nothing, which is unsafe for a claim about such a place. -/
def Obligations.InstancesIndependent : Prop :=
  (∀ (n m : Nat) (p q : Platform), stepInstance n p = .next q → m ≠ n → q[m]? = p[m]?) ∧
  ∀ (n m : Nat) (p : Platform), n ≠ m → stepInstances m n p = stepInstances n m p

/-- 30_encoding R43: the twelve commands have the bytes of the table, decode and encode agree both ways, and a byte decodes to
a command exactly when its fields are those of an assigned one. -/
def Obligations.EncodeDecodeAgree : Prop :=
  (∀ i : Instr, i.wellFormed = true → decode (encode i) = .ok i) ∧
  (∀ (b : Byte) (i : Instr), decode b = .ok i → b = encode i) ∧
  (∀ b : Byte, (∃ i : Instr, decode b = .ok i) ↔
    b.extractLsb' 5 3 = 0b000#3 ∧ b.extractLsb' 0 2 ≠ 0b11#2 ∧
      (b.extractLsb' 2 3).toNat ≤ 0b011) ∧
  Instr.all.map encode = [0x00#8, 0x01#8, 0x02#8, 0x04#8, 0x05#8, 0x06#8,
    0x08#8, 0x09#8, 0x0A#8, 0x0C#8, 0x0D#8, 0x0E#8]

/-- 30_encoding R36: the layout of the command byte, and that its three fields are all of it. -/
def Obligations.CommandByteLayout : Prop :=
  (∀ c : Command, c.toByte.toNat = c.rsv.toNat * 32 + c.wsel.toNat * 4 + c.fn.toNat ∧
    Command.ofByte c.toByte = c) ∧
  ∀ b : Byte, (Command.ofByte b).toByte = b ∧
    (Command.ofByte b).fn.toNat = b.toNat % 4 ∧
    (Command.ofByte b).wsel.toNat = b.toNat / 4 % 8 ∧
    (Command.ofByte b).rsv.toNat = b.toNat / 32

/-- 30_encoding R37 and R39: what the operation code and the width code of a command select. -/
def Obligations.FieldCodesSelect : Prop :=
  ∀ (b : Byte) (i : Instr), decode b = .ok i →
    (b.extractLsb' 0 2 = 0b00#2 ↔ i.operation = .rol) ∧
    (b.extractLsb' 0 2 = 0b01#2 ↔ i.operation = .ror) ∧
    (b.extractLsb' 0 2 = 0b10#2 ↔ i.operation = .bswap) ∧
    i.width.bits = 8 * 2 ^ (b.extractLsb' 2 3).toNat

/-- 30_encoding R43, R44: a few bytes written out bit by bit, one of each family and one of each error. -/
def Obligations.WrittenOutBytesDecode : Prop :=
  decode 0b000_000_00#8 = .ok .rol8 ∧ decode 0b000_010_01#8 = .ok .ror32 ∧
  decode 0b000_011_10#8 = .ok .bswap64 ∧ decode 0b000_001_10#8 = .ok .bswap16 ∧
  decode 0b000_100_00#8 = .error .unsupportedWidth ∧ decode 0b000_111_11#8 = .error .illegalCommand ∧
  decode 0b001_000_00#8 = .error .illegalCommand

/-- 00_scope R10: the shifts fill with zeros, and a shift by W or more gives 0. -/
def Obligations.ShiftsFillWithZeros : Prop :=
  ∀ (W : Nat) (v : BitVec W) (k : Nat),
    (shiftLeft v k).toNat = v.toNat * 2 ^ k % 2 ^ W ∧
    (shiftRight v k).toNat = v.toNat / 2 ^ k ∧
    (W ≤ k → shiftLeft v k = 0 ∧ shiftRight v k = 0)

/-- 30_encoding R47: every alias of the table names the same command as the mnemonic. -/
def Obligations.AliasesNameTheCommand : Prop :=
  ∀ w : Width,
    instrOfName ("rol" ++ widthSuffix w) = some (Instr.of .rol w) ∧
    instrOfName ("rotate_left" ++ widthSuffix w) = some (Instr.of .rol w) ∧
    instrOfName ("ror" ++ widthSuffix w) = some (Instr.of .ror w) ∧
    instrOfName ("rotate_right" ++ widthSuffix w) = some (Instr.of .ror w) ∧
    instrOfName ("bswap" ++ widthSuffix w) = some (Instr.of .bswap w) ∧
    instrOfName ("swap_endian" ++ widthSuffix w) = some (Instr.of .bswap w) ∧
    instrOfName ("swap_byte_order" ++ widthSuffix w) = some (Instr.of .bswap w)

/-- 30_encoding R46: a line fixes the transaction: the mnemonic alone the command byte, the operands the values on `a` and
`s`, the shift amount as a signed number (a negative one by its two's-complement pattern); a swap line drives `s`
with 0. -/
def Obligations.AssembledLinePresents : Prop :=
  ∀ (names : List (String × Int)) (w : Width) (a sh : PortWord),
    (∀ op : Operation, op ≠ .bswap →
      assemble names { name := mnemonic (Instr.of op w), operands := [.literal a.toNat, .literal sh.toInt] } =
        .ok { cmd := encode (Instr.of op w), a := a, s := sh }) ∧
    assemble names { name := mnemonic (Instr.of .bswap w), operands := [.literal a.toNat] } =
      .ok { cmd := encode (Instr.of .bswap w), a := a, s := 0 }
end

