-- ==== Sys2Proof/Laws/Config.lean ====
section
/-! SUPPORT. The model agrees with the parameters of 00_scope R8. -/

namespace Sys2Proof.Config

theorem width_supported (w : Width) : w.bits ∈ supportedWidths := by
  cases w <;> decide

theorem supported_width {n : Nat} (h : n ∈ supportedWidths) : ∃ w : Width, w.bits = n := by
  simp only [supportedWidths, List.mem_cons, List.not_mem_nil, or_false] at h
  obtain rfl | rfl | rfl | rfl := h
  exacts [⟨.w8, rfl⟩, ⟨.w16, rfl⟩, ⟨.w32, rfl⟩, ⟨.w64, rfl⟩]

/-- A word of a supported width is a whole number of bytes (00_scope R7). -/
theorem whole_bytes (w : Width) : bitsPerByte * (w.bits / bitsPerByte) = w.bits := by
  cases w <;> decide

/-- A raised error drives the parameter's result (60_exceptions R78). -/
theorem raise_result (e : BpuError) (s : Machine.State) :
    Machine.raise e s = .next { s with out := some { res := errorResult, err := Machine.errorCode e } } := rfl

end Sys2Proof.Config
end

