-- ==== Sys2Proof/Laws/Decode.lean ====
section
/-! SUPPORT. The decoder's shape: the one error priority and the table of codes (60_exceptions R79). -/

namespace Sys2Proof

/-- The two errors a command byte can raise; InvalidShift is never the decoder's. -/
theorem decode_error {b : Byte} {e : BpuError} (h : decode b = .error e) :
    e = .illegalCommand ∨ e = .unsupportedWidth := by
  simp only [decode] at h
  split at h
  · simp_all
  · split at h
    · simp_all
    · split at h <;> simp_all

/-- A decoded command is of the operation and width its codes select. -/
theorem decode_ok {b : Byte} {i : Instr} (h : decode b = .ok i) :
    ∃ op w, operationOfFn (Command.ofByte b).fn = some op ∧
      widthOfWsel (Command.ofByte b).wsel = some w ∧ i = Instr.of op w := by
  simp only [decode] at h
  split at h
  · simp at h
  · split at h
    · simp at h
    · split at h
      · simp at h
      · next op hop _ w hw => exact ⟨op, w, hop, hw, by simpa using h.symm⟩

theorem operation_of (op : Operation) (w : Width) : (Instr.of op w).operation = op := by
  cases op <;> cases w <;> rfl

theorem width_of (op : Operation) (w : Width) : (Instr.of op w).width = w := by
  cases op <;> cases w <;> rfl

theorem of_operation_width (i : Instr) : Instr.of i.operation i.width = i := by
  cases i <;> rfl

end Sys2Proof
end

