-- ==== Sys2Proof/Laws/State.lean ====
section
/-! SUPPORT. One lemma per field and per update of the state, true by rfl. -/

namespace Sys2Proof.Machine

@[simp] theorem driveOutputs_cmd (o : Outputs) (s : State) : (driveOutputs o s).cmd = s.cmd := rfl
@[simp] theorem driveOutputs_a (o : Outputs) (s : State) : (driveOutputs o s).a = s.a := rfl
@[simp] theorem driveOutputs_s (o : Outputs) (s : State) : (driveOutputs o s).s = s.s := rfl
@[simp] theorem driveOutputs_out (o : Outputs) (s : State) : (driveOutputs o s).out = some o := rfl

@[simp] theorem driveCmd_cmd (p : Port 8) (s : State) : (driveCmd p s).cmd = p := rfl
@[simp] theorem driveCmd_a (p : Port 8) (s : State) : (driveCmd p s).a = s.a := rfl
@[simp] theorem driveCmd_s (p : Port 8) (s : State) : (driveCmd p s).s = s.s := rfl
@[simp] theorem driveCmd_out (p : Port 8) (s : State) : (driveCmd p s).out = none := rfl

@[simp] theorem driveA_cmd (p : Port 64) (s : State) : (driveA p s).cmd = s.cmd := rfl
@[simp] theorem driveA_a (p : Port 64) (s : State) : (driveA p s).a = p := rfl
@[simp] theorem driveA_s (p : Port 64) (s : State) : (driveA p s).s = s.s := rfl
@[simp] theorem driveA_out (p : Port 64) (s : State) : (driveA p s).out = none := rfl

@[simp] theorem driveS_cmd (p : Port 64) (s : State) : (driveS p s).cmd = s.cmd := rfl
@[simp] theorem driveS_a (p : Port 64) (s : State) : (driveS p s).a = s.a := rfl
@[simp] theorem driveS_s (p : Port 64) (s : State) : (driveS p s).s = p := rfl
@[simp] theorem driveS_out (p : Port 64) (s : State) : (driveS p s).out = none := rfl

@[simp] theorem present_cmd (x : Inputs) (s : State) : (present x s).cmd = Port.drive x.cmd := rfl
@[simp] theorem present_a (x : Inputs) (s : State) : (present x s).a = Port.drive x.a := rfl
@[simp] theorem present_s (x : Inputs) (s : State) : (present x s).s = Port.drive x.s := rfl
@[simp] theorem present_out (x : Inputs) (s : State) : (present x s).out = none := rfl

@[simp] theorem presentCommand_cmd (w : Byte) (s : State) : (presentCommand w s).cmd = Port.drive w := rfl
@[simp] theorem presentCommand_a (w : Byte) (s : State) : (presentCommand w s).a = s.a.complete := rfl
@[simp] theorem presentCommand_s (w : Byte) (s : State) : (presentCommand w s).s = s.s.complete := rfl
@[simp] theorem presentCommand_out (w : Byte) (s : State) : (presentCommand w s).out = none := rfl

/-- The outputs of a transaction replace those of an earlier one. -/
theorem driveOutputs_driveOutputs (o o' : Outputs) (s : State) :
    driveOutputs o (driveOutputs o' s) = driveOutputs o s := rfl

end Sys2Proof.Machine
end

