-- ==== Sys2Proof/Laws/Ops.lean ====
section
/-! SUPPORT. What each shared operation can do, said once. -/

namespace Sys2Proof.Machine

/-! Reading the ports. -/

theorem readPort_eq_some_iff {w : Nat} (p : Port w) (v : BitVec w) :
    readPort p = some v ↔ p.defined = BitVec.allOnes w ∧ p.level = v := by
  unfold readPort
  split <;> simp_all

theorem readPort_eq_none_iff {w : Nat} (p : Port w) :
    readPort p = none ↔ p.defined ≠ BitVec.allOnes w := by
  unfold readPort
  split <;> simp_all

theorem readPort_drive {w : Nat} (v : BitVec w) : readPort (Port.drive v) = some v :=
  (readPort_eq_some_iff _ _).2 ⟨rfl, rfl⟩

theorem readPort_complete {w : Nat} (p : Port w) :
    readPort p.complete = some (p.level &&& p.defined) :=
  readPort_drive _

theorem readInputs_eq_some_iff (s : State) (x : Inputs) :
    readInputs s = some x ↔
      readPort s.cmd = some x.cmd ∧ readPort s.a = some x.a ∧ readPort s.s = some x.s := by
  unfold readInputs
  cases readPort s.cmd <;> cases readPort s.a <;> cases readPort s.s <;>
    simp [← Inputs.mk.injEq]

theorem readInputs_eq_none_iff (s : State) :
    readInputs s = none ↔
      readPort s.cmd = none ∨ readPort s.a = none ∨ readPort s.s = none := by
  unfold readInputs
  cases readPort s.cmd <;> cases readPort s.a <;> cases readPort s.s <;> simp

theorem readInputs_driveOutputs (o : Outputs) (s : State) :
    readInputs (driveOutputs o s) = readInputs s := rfl

theorem readInputs_present (x : Inputs) (s : State) : readInputs (present x s) = some x :=
  (readInputs_eq_some_iff _ _).2 ⟨readPort_drive _, readPort_drive _, readPort_drive _⟩

theorem readInputs_presentCommand (w : Byte) (s : State) :
    readInputs (presentCommand w s) =
      some { cmd := w, a := s.a.level &&& s.a.defined, s := s.s.level &&& s.s.defined } :=
  (readInputs_eq_some_iff _ _).2 ⟨readPort_drive _, readPort_complete _, readPort_complete _⟩

/-! Answering. -/

theorem answer_eq_next (v : PortWord) (s : State) :
    answer v s = .next (driveOutputs { res := v, err := 0b00#2 } s) := rfl

theorem raise_eq_next (e : BpuError) (s : State) :
    raise e s = .next (driveOutputs { res := 0, err := errorCode e } s) := rfl

theorem onInputs_of_some {s : State} {x : Inputs} (h : readInputs s = some x)
    (f : Inputs → Host.Outcome State Fault Refusal) : onInputs s f = f x := by
  simp [onInputs, h]

theorem onInputs_of_none {s : State} (h : readInputs s = none)
    (f : Inputs → Host.Outcome State Fault Refusal) : onInputs s f = .refused .undrivenInput := by
  simp [onInputs, h]

theorem onInputs_eq_next {s t : State} {f : Inputs → Host.Outcome State Fault Refusal}
    (h : onInputs s f = .next t) : ∃ x, readInputs s = some x ∧ f x = .next t := by
  cases hx : readInputs s with
  | none => simp [onInputs_of_none hx] at h
  | some x => exact ⟨x, rfl, by rwa [onInputs_of_some hx] at h⟩

/-! The two shapes of a command. -/

theorem shiftInRange_iff (W : Nat) (k : Int) : shiftInRange W k = true ↔ 0 ≤ k ∧ k < W := by
  simp [shiftInRange]

/-- A rotate command on driven inputs. -/
theorem rotateCommand_of_some {s : State} {x : Inputs} (h : readInputs s = some x) (W : Nat)
    (f : BitVec W → Nat → BitVec W) :
    rotateCommand W f s =
      if 0 ≤ x.s.toInt ∧ x.s.toInt < W then
        answer ((f (x.a.setWidth W) x.s.toInt.toNat).setWidth 64) s
      else raise .invalidShift s := by
  simp only [rotateCommand, onInputs_of_some h, shiftInRange_iff, shiftAmount, wordOperand, zext64]

/-- A byte-swap command on driven inputs. -/
theorem swapCommand_of_some {s : State} {x : Inputs} (h : readInputs s = some x) (W : Nat)
    (f : BitVec W → BitVec W) :
    swapCommand W f s = answer ((f (x.a.setWidth W)).setWidth 64) s := by
  simp only [swapCommand, onInputs_of_some h, wordOperand, zext64]

theorem rotateCommand_of_none {s : State} (h : readInputs s = none) (W : Nat)
    (f : BitVec W → Nat → BitVec W) : rotateCommand W f s = .refused .undrivenInput :=
  onInputs_of_none h _

theorem swapCommand_of_none {s : State} (h : readInputs s = none) (W : Nat)
    (f : BitVec W → BitVec W) : swapCommand W f s = .refused .undrivenInput :=
  onInputs_of_none h _

/-- Everything a rotate command does when it answers. -/
theorem rotateCommand_eq_next {s t : State} {W : Nat} {f : BitVec W → Nat → BitVec W}
    (h : rotateCommand W f s = .next t) :
    ∃ x, readInputs s = some x ∧
      ((0 ≤ x.s.toInt ∧ x.s.toInt < W ∧ t = driveOutputs
          { res := (f (x.a.setWidth W) x.s.toInt.toNat).setWidth 64, err := 0b00#2 } s) ∨
        (¬ (0 ≤ x.s.toInt ∧ x.s.toInt < W) ∧ t = driveOutputs { res := 0, err := 0b01#2 } s)) := by
  obtain ⟨x, hx, -⟩ := onInputs_eq_next h
  refine ⟨x, hx, ?_⟩
  rw [rotateCommand_of_some hx] at h
  split at h
  · next hk => exact .inl ⟨hk.1, hk.2, by simpa [answer_eq_next] using h.symm⟩
  · next hk => exact .inr ⟨hk, by simpa [raise_eq_next, errorCode] using h.symm⟩

/-- Everything a byte-swap command does when it answers. -/
theorem swapCommand_eq_next {s t : State} {W : Nat} {f : BitVec W → BitVec W}
    (h : swapCommand W f s = .next t) :
    ∃ x, readInputs s = some x ∧
      t = driveOutputs { res := (f (x.a.setWidth W)).setWidth 64, err := 0b00#2 } s := by
  obtain ⟨x, hx, -⟩ := onInputs_eq_next h
  exact ⟨x, hx, by simpa [swapCommand_of_some hx, answer_eq_next] using h.symm⟩

/-- Taking a command on driven inputs. -/
theorem issue_of_some {s : State} {x : Inputs} (h : readInputs s = some x)
    (run : Instr → State → Host.Outcome State Fault Refusal) :
    issue run s = match decode x.cmd with
      | .error e => raise e s
      | .ok i => run i s :=
  onInputs_of_some h _

/-! The shifts on values, as the library's. -/

theorem shiftLeft_eq {W : Nat} (v : BitVec W) (k : Nat) : shiftLeft v k = v <<< k := by
  apply BitVec.eq_of_toNat_eq
  simp [shiftLeft, BitVec.toNat_shiftLeft, Nat.shiftLeft_eq]

theorem shiftRight_eq {W : Nat} (v : BitVec W) (k : Nat) : shiftRight v k = v >>> k := by
  apply BitVec.eq_of_toNat_eq
  rw [shiftRight, BitVec.toNat_ofNat, BitVec.toNat_ushiftRight, Nat.shiftRight_eq_div_pow]
  exact Nat.mod_eq_of_lt (Nat.lt_of_le_of_lt (Nat.div_le_self _ _) v.isLt)

/-- Bit b of byte k is bit 8k + b of the word (00_scope R11). -/
theorem getLsbD_byteOf {W : Nat} (k b : Nat) (v : BitVec W) :
    (byteOf k v).getLsbD b = (decide (b < 8) && v.getLsbD (8 * k + b)) := by
  simp [byteOf]

end Sys2Proof.Machine
end

