-- ==== Sys2Proof/Laws/PerInstr.lean ====
section
/-! SUPPORT. Facts about a command as syntax, one lemma per constructor: the fields of its byte pass the three checks
of well-formedness (30_encoding R43). -/

namespace Sys2Proof.Laws.EncodedFields

/-- The byte of the command has the fields of a well-formed command, and they select its operation and width. -/
def Statement (i : Instr) : Prop :=
  (Command.ofByte (encode i)).wellFormed = true ∧
    operationOfFn (Command.ofByte (encode i)).fn = some i.operation ∧
    widthOfWsel (Command.ofByte (encode i)).wsel = some i.width

theorem rol8 : Statement .rol8 := by unfold Statement; decide
theorem ror8 : Statement .ror8 := by unfold Statement; decide
theorem bswap8 : Statement .bswap8 := by unfold Statement; decide
theorem rol16 : Statement .rol16 := by unfold Statement; decide
theorem ror16 : Statement .ror16 := by unfold Statement; decide
theorem bswap16 : Statement .bswap16 := by unfold Statement; decide
theorem rol32 : Statement .rol32 := by unfold Statement; decide
theorem ror32 : Statement .ror32 := by unfold Statement; decide
theorem bswap32 : Statement .bswap32 := by unfold Statement; decide
theorem rol64 : Statement .rol64 := by unfold Statement; decide
theorem ror64 : Statement .ror64 := by unfold Statement; decide
theorem bswap64 : Statement .bswap64 := by unfold Statement; decide

end Sys2Proof.Laws.EncodedFields
end

