-- ==== Sys2Proof/Laws/Step.lean ====
section
/-! SUPPORT. What a command and a step can do. -/

namespace Sys2Proof.Machine

/-- No command answers a transaction with an undriven input bit (10_state R18). -/
theorem exec_of_none (i : Instr) {s : State} (h : readInputs s = none) :
    exec i s = .refused .undrivenInput := by
  cases i <;> exact onInputs_of_none h _

/-- Everything a rotate command of `exec` does on driven inputs, by operation and width. -/
theorem exec_rotate_of_some {s : State} {x : Inputs} (h : readInputs s = some x) (w : Width) :
    (exec (Instr.of .rol w) s =
      if 0 ≤ x.s.toInt ∧ x.s.toInt < w.bits then
        answer ((rol (x.a.setWidth w.bits) x.s.toInt.toNat).setWidth 64) s
      else raise .invalidShift s) ∧
    (exec (Instr.of .ror w) s =
      if 0 ≤ x.s.toInt ∧ x.s.toInt < w.bits then
        answer ((ror (x.a.setWidth w.bits) x.s.toInt.toNat).setWidth 64) s
      else raise .invalidShift s) := by
  cases w <;> exact ⟨rotateCommand_of_some h _ _, rotateCommand_of_some h _ _⟩

/-- Every byte-swap command of `exec` is a swap command of its width (41_bswap R68 to R71). -/
theorem exec_swap_shape (w : Width) :
    ∃ f : BitVec w.bits → BitVec w.bits, ∀ s, exec (Instr.of .bswap w) s = swapCommand w.bits f s := by
  cases w with
  | w8 => exact ⟨fun x => x, fun _ => rfl⟩
  | w16 => exact ⟨fun x : BitVec 16 => byteOf 0 x ++ byteOf 1 x, fun _ => rfl⟩
  | w32 => exact ⟨fun x : BitVec 32 => byteOf 0 x ++ byteOf 1 x ++ byteOf 2 x ++ byteOf 3 x, fun _ => rfl⟩
  | w64 =>
    exact ⟨fun x : BitVec 64 => byteOf 0 x ++ byteOf 1 x ++ byteOf 2 x ++ byteOf 3 x ++ byteOf 4 x ++
      byteOf 5 x ++ byteOf 6 x ++ byteOf 7 x, fun _ => rfl⟩

/-- A command that answers has driven inputs and writes the outputs alone. -/
theorem exec_eq_next {i : Instr} {s t : State} (h : exec i s = .next t) :
    ∃ x o, readInputs s = some x ∧ t = driveOutputs o s := by
  cases hx : readInputs s with
  | none => simp [exec_of_none i hx] at h
  | some x =>
    obtain ⟨op, w, rfl⟩ : ∃ op w, i = Instr.of op w := ⟨_, _, (of_operation_width i).symm⟩
    cases op with
    | rol =>
      rw [(exec_rotate_of_some hx w).1] at h
      split at h <;> exact ⟨x, _, rfl, (Host.Outcome.next.inj h).symm⟩
    | ror =>
      rw [(exec_rotate_of_some hx w).2] at h
      split at h <;> exact ⟨x, _, rfl, (Host.Outcome.next.inj h).symm⟩
    | bswap =>
      obtain ⟨f, hf⟩ := exec_swap_shape w
      rw [hf, swapCommand_of_some hx] at h
      exact ⟨x, _, rfl, (Host.Outcome.next.inj h).symm⟩

/-- A step with an undriven input bit is refused (10_state R18). -/
theorem step_of_none {s : State} (h : readInputs s = none) : step s = .refused .undrivenInput :=
  onInputs_of_none h _

/-- What a step can do when it answers: raise the error of an unassigned byte, or run the command. -/
theorem step_eq_next {s t : State} (h : step s = .next t) :
    ∃ x, readInputs s = some x ∧
      ((∃ e, decode x.cmd = .error e ∧ t = driveOutputs { res := 0, err := errorCode e } s) ∨
        ∃ i, decode x.cmd = .ok i ∧ exec i s = .next t) := by
  obtain ⟨x, hx, -⟩ := onInputs_eq_next h
  refine ⟨x, hx, ?_⟩
  rw [step, issue_of_some hx] at h
  split at h
  · next e he => exact .inl ⟨e, he, by simpa [raise_eq_next] using h.symm⟩
  · next i hi => exact .inr ⟨i, hi, h⟩

end Sys2Proof.Machine
end

