-- ==== Sys2Proof/Tests/Slice0.lean ====
section
/-! SUPPORT. Small tests. Every expected value is transcribed from spec/ (30_encoding R43; 95_test_vectors S1 to S7 and
V1 to V73; the examples of 40_rotate and 41_bswap), and every statement's hypotheses are met by a named witness. -/

namespace Sys2Proof.Machine

/-- A host that has just powered up and presents one transaction. -/
def presented (cmd : Byte) (a s : PortWord) : State := present { cmd := cmd, a := a, s := s } State.reset

/-- What the host samples for it. -/
def reply (cmd : Byte) (a s : PortWord) : Option Outputs := sampled (step (presented cmd a s))

/-! Well-formedness: one ill-formed command for each check, refused. -/

theorem smoke_reserved_bit : (Command.mk 0b001#3 0b000#3 0b00#2).wellFormed = false := by decide
theorem smoke_reserved_fn : (Command.mk 0b000#3 0b010#3 0b11#2).wellFormed = false := by decide
theorem smoke_unsupported_width : (Command.mk 0b000#3 0b100#3 0b10#2).wellFormed = false := by decide
theorem smoke_assigned : (Command.mk 0b000#3 0b011#3 0b10#2).wellFormed = true := by decide

/-! Decoding: the bytes of 30_encoding R43, written out as rsv_wsel_fn. -/

theorem test_decode_rol : decode 0b000_000_00#8 = .ok .rol8 ∧ decode 0b000_001_00#8 = .ok .rol16 ∧
    decode 0b000_010_00#8 = .ok .rol32 ∧ decode 0b000_011_00#8 = .ok .rol64 := ⟨rfl, rfl, rfl, rfl⟩
theorem test_decode_ror : decode 0b000_000_01#8 = .ok .ror8 ∧ decode 0b000_001_01#8 = .ok .ror16 ∧
    decode 0b000_010_01#8 = .ok .ror32 ∧ decode 0b000_011_01#8 = .ok .ror64 := ⟨rfl, rfl, rfl, rfl⟩
theorem test_decode_bswap : decode 0b000_000_10#8 = .ok .bswap8 ∧ decode 0b000_001_10#8 = .ok .bswap16 ∧
    decode 0b000_010_10#8 = .ok .bswap32 ∧ decode 0b000_011_10#8 = .ok .bswap64 := ⟨rfl, rfl, rfl, rfl⟩

/-- V64, V67, V71 and the priority of V66 and V68. -/
theorem test_decode_errors : decode 0x03#8 = .error .illegalCommand ∧ decode 0x10#8 = .error .unsupportedWidth ∧
    decode 0x20#8 = .error .illegalCommand ∧ decode 0x1F#8 = .error .illegalCommand ∧
    decode 0x14#8 = .error .unsupportedWidth := ⟨rfl, rfl, rfl, rfl, rfl⟩

theorem test_table_word : decodeTableWord 8 0x0E = some .bswap64 ∧ decodeTableWord 8 0x03 = none ∧
    decodeTableWord 16 0 = none := by decide

/-! Results: 95_test_vectors section 2. -/

/-- V1, the source's S1. -/
theorem test_rol8_source_example : reply 0x00#8 0xB0#64 3#64 = some { res := 0x85#64, err := 0b00#2 } := by decide
/-- V9. -/
theorem test_rol8_upper_bits : reply 0x00#8 0xFFFFFFFFFFFFFF01#64 1#64 = some { res := 0x2#64, err := 0b00#2 } := by decide
/-- V18. -/
theorem test_rol16_last_amount : reply 0x04#8 0x1234#64 15#64 = some { res := 0x091A#64, err := 0b00#2 } := by decide
/-- V20. -/
theorem test_rol16_amount_w : reply 0x04#8 0x1234#64 16#64 = some { res := 0x0#64, err := 0b01#2 } := by decide
/-- V27. -/
theorem test_rol32_odd_amount : reply 0x08#8 0xDEADBEEF#64 13#64 = some { res := 0xB7DDFBD5#64, err := 0b00#2 } := by decide
/-- V33. -/
theorem test_rol32_not_reduced : reply 0x08#8 0x12345678#64 37#64 = some { res := 0x0#64, err := 0b01#2 } := by decide
/-- V41. -/
theorem test_rol64_last_amount : reply 0x0C#8 0x0123456789ABCDEF#64 63#64 = some { res := 0x8091A2B3C4D5E6F7#64, err := 0b00#2 } := by decide
/-- V44. -/
theorem test_rol64_amount_w : reply 0x0C#8 0x0123456789ABCDEF#64 64#64 = some { res := 0x0#64, err := 0b01#2 } := by decide
/-- V2, the source's S2. -/
theorem test_ror8_source_example : reply 0x01#8 0xB0#64 3#64 = some { res := 0x16#64, err := 0b00#2 } := by decide
/-- V12. -/
theorem test_ror8_amount_w : reply 0x01#8 0xB0#64 8#64 = some { res := 0x0#64, err := 0b01#2 } := by decide
/-- V14. -/
theorem test_ror16_nibble : reply 0x05#8 0x1234#64 4#64 = some { res := 0x4123#64, err := 0b00#2 } := by decide
/-- V52. -/
theorem test_ror16_zero : reply 0x05#8 0x1234#64 0#64 = some { res := 0x1234#64, err := 0b00#2 } := by decide
/-- V28. -/
theorem test_ror32_odd_amount : reply 0x09#8 0xDEADBEEF#64 13#64 = some { res := 0xF77EF56D#64, err := 0b00#2 } := by decide
/-- V32. -/
theorem test_ror32_most_negative : reply 0x09#8 0x12345678#64 0x8000000000000000#64 = some { res := 0x0#64, err := 0b01#2 } := by decide
/-- V42. -/
theorem test_ror64_last_amount : reply 0x0D#8 0x0123456789ABCDEF#64 63#64 = some { res := 0x02468ACF13579BDE#64, err := 0b00#2 } := by decide
/-- V45. -/
theorem test_ror64_negative : reply 0x0D#8 0x0123456789ABCDEF#64 0xFFFFFFFFFFFFFFFF#64 = some { res := 0x0#64, err := 0b01#2 } := by decide
/-- V48. -/
theorem test_bswap8_upper_bits : reply 0x02#8 0xFFFFFFFFFFFF12AB#64 0#64 = some { res := 0xAB#64, err := 0b00#2 } := by decide
/-- V49. -/
theorem test_bswap8_ignores_s : reply 0x02#8 0xAB#64 0xFFFFFFFFFFFFFFFB#64 = some { res := 0xAB#64, err := 0b00#2 } := by decide
/-- V50. -/
theorem test_bswap16_two_bytes : reply 0x06#8 0x1234#64 0#64 = some { res := 0x3412#64, err := 0b00#2 } := by decide
/-- V51. -/
theorem test_bswap16_whole_byte : reply 0x06#8 0x00FF#64 0#64 = some { res := 0xFF00#64, err := 0b00#2 } := by decide
/-- V56. -/
theorem test_bswap32_dirty_inputs : reply 0x0A#8 0xFFFFFFFF12345678#64 0xFFFFFFFFFFFFFFFF#64 = some { res := 0x78563412#64, err := 0b00#2 } := by decide
/-- V59. -/
theorem test_bswap32_no_palindrome : reply 0x0A#8 0x12344321#64 0#64 = some { res := 0x21433412#64, err := 0b00#2 } := by decide
/-- V60. -/
theorem test_bswap64_eight_bytes : reply 0x0E#8 0x0123456789ABCDEF#64 0#64 = some { res := 0xEFCDAB8967452301#64, err := 0b00#2 } := by decide
/-- V62. -/
theorem test_bswap64_low_byte : reply 0x0E#8 0xFF#64 0#64 = some { res := 0xFF00000000000000#64, err := 0b00#2 } := by decide
/-- V66. -/
theorem test_illegal_beats_all : reply 0x1F#8 0x1234#64 999#64 = some { res := 0x0#64, err := 0b11#2 } := by decide
/-- V68. -/
theorem test_width_beats_shift : reply 0x14#8 0x1234#64 999#64 = some { res := 0x0#64, err := 0b10#2 } := by decide
/-- V72. -/
theorem test_reserved_not_ignored : reply 0xE8#8 0x12345678#64 8#64 = some { res := 0x0#64, err := 0b11#2 } := by decide
/-- V30. -/
theorem test_genuine_zero : reply 0x08#8 0x0#64 5#64 = some { res := 0x0#64, err := 0b00#2 } := by decide

/-! The assembler: lines of 95_test_vectors section 3 and 30_encoding R46 and R47. -/

/-- P4, step 1, with a comment. -/
theorem test_assemble_rotate : assembleText [] "rol16   0x1234, 3 ; -> 0x91A0, 00" =
    .ok { cmd := 0x04#8, a := 0x1234#64, s := 3#64 } := by rfl

/-- V11 with the source's name of the operation. -/
theorem test_assemble_negative_alias : assembleText [] "rotate_left8 0b10110000, -1" =
    .ok { cmd := 0x00#8, a := 0xB0#64, s := 0xFFFFFFFFFFFFFFFF#64 } := by rfl

/-- P2, step 2, with a host-side name. -/
theorem test_assemble_swap_named : assembleText [("w", 0xEFCDAB8967452301)] "bswap64 w" =
    .ok { cmd := 0x0E#8, a := 0xEFCDAB8967452301#64, s := 0#64 } := by rfl

theorem test_assemble_rejects : assembleText [] "rol24 1, 2" = .error .unknownMnemonic ∧
    assembleText [] "bswap8 1, 2" = .error .wrongOperands ∧
    assembleText [] "rol8 x, 2" = .error .badOperand := ⟨rfl, rfl, rfl⟩

/-! The fixed names of the host. -/

theorem test_fetch_after_reset : sampled (step (State.reset.withFetchWord 8 0x0E)) =
    some { res := 0, err := 0b00#2 } := by decide

theorem test_core_reset : Sys2Proof.core.step Sys2Proof.core.reset = .refused .undrivenInput := rfl

/-! Witnesses: for each statement with hypotheses, states and operands that meet them, at the boundaries. -/

/-- The hypotheses of a rotate's result: driven inputs, and a shift amount in range. -/
abbrev inRangeAt (cmd : Byte) (W k : Nat) : Prop :=
  readInputs (presented cmd 0xB0 (BitVec.ofNat 64 k)) =
    some { cmd := cmd, a := 0xB0, s := BitVec.ofNat 64 k } ∧ k < W ∧ (BitVec.ofNat 64 k).toInt = k

/-- The hypotheses of a rotate's error: driven inputs, and a shift amount out of range. -/
abbrev outOfRangeAt (cmd : Byte) (W : Nat) (s : PortWord) : Prop :=
  readInputs (presented cmd 0xB0 s) = some { cmd := cmd, a := 0xB0, s := s } ∧
    (s.toInt < 0 ∨ (W : Int) ≤ s.toInt)

theorem witness_RotateLeft8Result : inRangeAt 0x00 8 0 ∧ inRangeAt 0x00 8 7 ∧
    outOfRangeAt 0x00 8 8 ∧ outOfRangeAt 0x00 8 0xFFFFFFFFFFFFFFFF := by decide
theorem witness_RotateLeft16Result : inRangeAt 0x04 16 0 ∧ inRangeAt 0x04 16 15 ∧
    outOfRangeAt 0x04 16 16 ∧ outOfRangeAt 0x04 16 0xFFFFFFFFFFFFFFFF := by decide
theorem witness_RotateLeft32Result : inRangeAt 0x08 32 0 ∧ inRangeAt 0x08 32 31 ∧
    outOfRangeAt 0x08 32 32 ∧ outOfRangeAt 0x08 32 0xFFFFFFFFFFFFFFFF := by decide
theorem witness_RotateLeft64Result : inRangeAt 0x0C 64 0 ∧ inRangeAt 0x0C 64 63 ∧
    outOfRangeAt 0x0C 64 64 ∧ outOfRangeAt 0x0C 64 0xFFFFFFFFFFFFFFFF := by decide
theorem witness_RotateRight8Result : inRangeAt 0x01 8 0 ∧ inRangeAt 0x01 8 7 ∧
    outOfRangeAt 0x01 8 8 ∧ outOfRangeAt 0x01 8 0xFFFFFFFFFFFFFFFF := by decide
theorem witness_RotateRight16Result : inRangeAt 0x05 16 0 ∧ inRangeAt 0x05 16 15 ∧
    outOfRangeAt 0x05 16 16 ∧ outOfRangeAt 0x05 16 0xFFFFFFFFFFFFFFFF := by decide
theorem witness_RotateRight32Result : inRangeAt 0x09 32 0 ∧ inRangeAt 0x09 32 31 ∧
    outOfRangeAt 0x09 32 32 ∧ outOfRangeAt 0x09 32 0xFFFFFFFFFFFFFFFF := by decide
theorem witness_RotateRight64Result : inRangeAt 0x0D 64 0 ∧ inRangeAt 0x0D 64 63 ∧
    outOfRangeAt 0x0D 64 64 ∧ outOfRangeAt 0x0D 64 0xFFFFFFFFFFFFFFFF := by decide
theorem witness_ByteSwap8Result : readInputs (presented 0x02 0x0123456789ABCDEF 0xFFFFFFFFFFFFFFFF) =
    some { cmd := 0x02, a := 0x0123456789ABCDEF, s := 0xFFFFFFFFFFFFFFFF } := by decide
theorem witness_ByteSwap16Result : readInputs (presented 0x06 0x0123456789ABCDEF 0xFFFFFFFFFFFFFFFF) =
    some { cmd := 0x06, a := 0x0123456789ABCDEF, s := 0xFFFFFFFFFFFFFFFF } := by decide
theorem witness_ByteSwap32Result : readInputs (presented 0x0A 0x0123456789ABCDEF 0xFFFFFFFFFFFFFFFF) =
    some { cmd := 0x0A, a := 0x0123456789ABCDEF, s := 0xFFFFFFFFFFFFFFFF } := by decide
theorem witness_ByteSwap64Result : readInputs (presented 0x0E 0x0123456789ABCDEF 0xFFFFFFFFFFFFFFFF) =
    some { cmd := 0x0E, a := 0x0123456789ABCDEF, s := 0xFFFFFFFFFFFFFFFF } := by decide

theorem witness_RotationMovesBits : (7 < 8 ∧ 0 < 8) ∧ (0 < 1 ∧ 0 < 1) := by decide
theorem witness_RotationUndone : 7 < 8 ∧ 0 < 1 := by decide
theorem witness_RotationUndoneAtPorts : (0 ≤ (0#64).toInt ∧ (0#64).toInt < Width.w8.bits) ∧
    (0 ≤ (63#64).toInt ∧ (63#64).toInt < Width.w64.bits) := by decide
theorem witness_RotationByZeroIsIdentity : Operation.ror ≠ .bswap ∧
    readInputs (presented 0x05 0x1234 0) = some { cmd := 0x05, a := 0x1234, s := 0 } := by decide
theorem witness_RotationsCompose : 3 + 4 < 8 ∧ (7 < 8 ∧ 1 < 8 ∧ 8 ≤ 7 + 1) ∧
    (Operation.rol ≠ .bswap ∧ readInputs (presented 0x00 0xB0 8) = some { cmd := 0x00, a := 0xB0, s := 8 } ∧
      (8#64).toInt = (7 : Nat) + (1 : Nat) ∧ Width.w8.bits ≤ 7 + 1) := by decide
theorem witness_RotationsMirror : (0 < 1 ∧ 1 < 8) ∧ (0 < 7 ∧ 7 < 8) ∧
    (Operation.rol ≠ .bswap ∧ readInputs (presented 0x00 0xB0 8) = some { cmd := 0x00, a := 0xB0, s := 8 } ∧
      (8#64).toInt = Width.w8.bits) := by decide
theorem witness_SwapReversesBytes : (0 < 8 ∧ 7 < 8) ∧ 7 < 8 := by decide
theorem witness_SwapAgainstRotations : 31 < 32 ∧ 63 < 64 := by decide
theorem witness_OutOfRangeShiftRejected : Operation.rol ≠ .bswap ∧ outOfRangeAt 0x08 Width.w32.bits 32 ∧
    outOfRangeAt 0x08 Width.w32.bits 0x8000000000000000 := by decide

/-- The hypotheses `readInputs st = some x`, `step st = .next t` and `t.out = some o` of the statements about a
step's outputs, all met by the transaction `cmd, a, s` with the outputs `res, err`. -/
abbrev answersAt (cmd : Byte) (a s res : PortWord) (err : ErrCode) : Prop :=
  readInputs (presented cmd a s) = some { cmd := cmd, a := a, s := s } ∧
    step (presented cmd a s) = .next { presented cmd a s with out := some { res := res, err := err } }

theorem witness_InvalidShiftExactly : answersAt 0x08 0x12345678 32 0 0b01 ∧
    answersAt 0x08 0x12345678 31 0x091A2B3C 0b00 ∧ answersAt 0x10 0x1234 999 0 0b10 :=
  ⟨⟨rfl, rfl⟩, ⟨rfl, rfl⟩, ⟨rfl, rfl⟩⟩
theorem witness_UnsupportedWidthExactly : answersAt 0x10 0x1234 3 0 0b10 ∧ answersAt 0x1E 0 0 0 0b10 ∧
    answersAt 0x0E 0xFF 0 0xFF00000000000000 0b00 := ⟨⟨rfl, rfl⟩, ⟨rfl, rfl⟩, ⟨rfl, rfl⟩⟩
theorem witness_IllegalCommandExactly : answersAt 0x20 0x1234 3 0 0b11 ∧ answersAt 0x1F 0x1234 999 0 0b11 ∧
    answersAt 0x1E 0 0 0 0b10 := ⟨⟨rfl, rfl⟩, ⟨rfl, rfl⟩, ⟨rfl, rfl⟩⟩
theorem witness_ReservedBitsNotIgnored :
    readInputs (presented 0x20 0 0) = some { cmd := 0x20, a := 0, s := 0 } ∧ (0x20#8).getLsbD 5 = true ∧
    readInputs (presented 0x80 0 0) = some { cmd := 0x80, a := 0, s := 0 } ∧ (0x80#8).getLsbD 7 = true := by decide
theorem witness_ErrorLeavesNothingBehind : answersAt 0x1C 0xFF 1 0 0b10 ∧ (0b10#2) ≠ 0b00#2 :=
  ⟨⟨rfl, rfl⟩, by decide⟩
theorem witness_SuccessIsTheResult : answersAt 0x00 0xB0 7 0x58 0b00 ∧ answersAt 0x08 0 5 0 0b00 ∧
    answersAt 0x02 0xAB 0 0xAB 0b00 ∧ answersAt 0x0D 0x0123456789ABCDEF 63 0x02468ACF13579BDE 0b00 :=
  ⟨⟨rfl, rfl⟩, ⟨rfl, rfl⟩, ⟨rfl, rfl⟩, ⟨rfl, rfl⟩⟩
theorem witness_StepComputesBpu : readInputs (presented 0xFF 0 0) = some { cmd := 0xFF, a := 0, s := 0 } := by decide
theorem witness_EqualInputsEqualOutputs :
    readInputs (presented 0x0A 1 2) = some { cmd := 0x0A, a := 1, s := 2 } ∧
    readInputs { presented 0x0A 1 2 with out := some { res := 5, err := 0b01 } } =
      some { cmd := 0x0A, a := 1, s := 2 } := by decide

/-- One undriven bit, the top one of port `s`, under a command that does not read `s`. -/
def oneBitUndriven : State :=
  { presented 0x0E 0xFF 0 with s := { defined := 0x7FFFFFFFFFFFFFFF, level := 0 } }

theorem witness_UndrivenInputRefused : oneBitUndriven.hasUndrivenBit ∧ State.reset.hasUndrivenBit ∧
    step oneBitUndriven = .refused .undrivenInput ∧ exec .bswap64 oneBitUndriven = .refused .undrivenInput :=
  ⟨.inr (.inr ⟨63, by decide⟩), .inl ⟨0, by decide⟩, rfl, rfl⟩
theorem witness_DrivenInputAnswered : ¬ (presented 0x0E 0xFF 0).hasUndrivenBit := by
  unfold State.hasUndrivenBit
  decide
theorem witness_UpperBitsIgnored :
    ∀ i, i < Width.w8.bits → (0xFFFFFFFFFFFFFF01#64).getLsbD i = (0x01#64).getLsbD i := by decide
theorem witness_ResultZeroExtended : answersAt 0x00 0xFFFFFFFFFFFFFF01 1 2 0b00 ∧
    8 * 2 ^ ((0x00#8).extractLsb' 2 3).toNat ≤ 8 ∧ answersAt 0x03 1 0 0 0b11 :=
  ⟨⟨rfl, rfl⟩, by decide, ⟨rfl, rfl⟩⟩
theorem witness_StepKeepsSound : (presented 0x06 0x1234 0).sound ∧ answersAt 0x06 0x1234 0 0x3412 0b00 :=
  ⟨⟨by unfold State.portsCanonical Port.canonical; decide, fun _ h => nomatch h⟩, rfl, rfl⟩
theorem witness_HostMovesKeepSound :
    HostMove.canonical (.s { defined := 0x0F, level := 0x05 }) ∧ (presented 0x06 0x1234 0).sound :=
  ⟨by unfold HostMove.canonical Port.canonical; decide,
    by unfold State.portsCanonical Port.canonical; decide, fun _ h => nomatch h⟩
theorem witness_StepSettlesOutputs : answersAt 0x03 0x1234 0 0 0b11 := ⟨rfl, rfl⟩
theorem witness_OnlyOutputsChange : answersAt 0x09 1 1 0x80000000 0b00 ∧
    exec .ror32 (presented 0x09 1 1) =
      .next { presented 0x09 1 1 with out := some { res := 0x80000000, err := 0b00 } } := ⟨⟨rfl, rfl⟩, rfl⟩
theorem witness_StepRunsDecodedCommand :
    (readInputs (presented 0x0E 0 0) = some { cmd := 0x0E, a := 0, s := 0 } ∧ decode 0x0E = .ok .bswap64) ∧
    (readInputs (presented 0x0F 0 0) = some { cmd := 0x0F, a := 0, s := 0 } ∧
      decode 0x0F = .error .illegalCommand) := ⟨⟨rfl, rfl⟩, rfl, rfl⟩
theorem witness_TransactionIdempotent : answersAt 0x04 0x8001 1 3 0b00 ∧
    readInputs { presented 0x04 0x8001 1 with out := some { res := 9, err := 0 } } =
      readInputs (presented 0x04 0x8001 1) := ⟨⟨rfl, rfl⟩, rfl⟩
theorem witness_OldOutputsNotRead : answersAt 0x04 0x8001 1 3 0b00 ∧
    exec .rol16 (presented 0x04 0x8001 1) =
      .next { presented 0x04 0x8001 1 with out := some { res := 3, err := 0b00 } } := ⟨⟨rfl, rfl⟩, rfl⟩
theorem witness_InstancesIndependent : (1 : Nat) ≠ 0 ∧
    stepInstance 0 [presented 0x02 0xAB 0, State.reset] =
      .next [{ presented 0x02 0xAB 0 with out := some { res := 0xAB, err := 0b00 } }, State.reset] :=
  ⟨by decide, rfl⟩
theorem witness_EncodeDecodeAgree : Instr.rol8.wellFormed = true ∧ decode 0x0E = .ok .bswap64 := ⟨rfl, rfl⟩
theorem witness_FieldCodesSelect : decode 0x00 = .ok .rol8 ∧ decode 0x0E = .ok .bswap64 := ⟨rfl, rfl⟩
theorem witness_ShiftsFillWithZeros : 8 ≤ 8 ∧ shiftRight 0xFF#8 8 = 0 := by decide
theorem witness_AssembledLinePresents : Operation.ror ≠ .bswap := by decide

end Sys2Proof.Machine
end

section
/-! PROOFS. The scope: what a step runs (00_scope R2) and the shifts on values (00_scope R10). -/

namespace Sys2Proof.Machine

/-- On driven inputs with an assigned byte, a step runs the command (60_exceptions R79). -/
theorem step_of_decode_ok {s : State} {x : Inputs} {i : Instr} (hx : readInputs s = some x)
    (hi : decode x.cmd = .ok i) : step s = exec i s := by
  rw [step, issue_of_some hx, hi]

/-- On driven inputs with an unassigned byte, a step raises the error of the byte (60_exceptions R78, R79). -/
theorem step_of_decode_error {s : State} {x : Inputs} {e : BpuError} (hx : readInputs s = some x)
    (he : decode x.cmd = .error e) : step s = raise e s := by
  rw [step, issue_of_some hx, he]

theorem toNat_shiftLeft {W : Nat} (v : BitVec W) (k : Nat) :
    (shiftLeft v k).toNat = v.toNat * 2 ^ k % 2 ^ W := by
  rw [shiftLeft, BitVec.toNat_ofNat]

theorem toNat_shiftRight {W : Nat} (v : BitVec W) (k : Nat) :
    (shiftRight v k).toNat = v.toNat / 2 ^ k := by
  rw [shiftRight_eq, BitVec.toNat_ushiftRight, Nat.shiftRight_eq_div_pow]

theorem shiftLeft_eq_zero {W : Nat} (v : BitVec W) {k : Nat} (hk : W ≤ k) : shiftLeft v k = 0 := by
  rw [shiftLeft_eq]
  exact BitVec.shiftLeft_eq_zero hk

theorem shiftRight_eq_zero {W : Nat} (v : BitVec W) {k : Nat} (hk : W ≤ k) : shiftRight v k = 0 := by
  rw [shiftRight_eq]
  exact BitVec.ushiftRight_eq_zero hk

/-- Settles O44, by the two outcomes of the decoder on the byte of port `cmd`. -/
theorem stepRunsDecodedCommand : Obligations.StepRunsDecodedCommand := by
  intro st x hx
  constructor
  · intro i hi
    exact step_of_decode_ok hx hi
  · intro e he
    rw [step_of_decode_error hx he]
    exact Config.raise_result e st

/-- Settles O54: the values are those of the shifts' definitions, and the shifts by W or more are the library's. -/
theorem shiftsFillWithZeros : Obligations.ShiftsFillWithZeros := by
  intro W v k
  exact ⟨toNat_shiftLeft v k, toNat_shiftRight v k,
    fun hk => ⟨shiftLeft_eq_zero v hk, shiftRight_eq_zero v hk⟩⟩

end Sys2Proof.Machine
end

section
/-! PROOFS. The byte swap bit by bit, and the swaps written byte after byte (41_bswap R67 to R71). -/

namespace Sys2Proof.Machine

/-- The bits of the bytes placed so far: those of the top `m` bytes are the mirrored ones of x, the others 0. -/
theorem getLsbD_placeBytes {n : Nat} (x : BitVec (8 * n)) {m : Nat} (hm : m ≤ n) {q b : Nat}
    (hq : q < n) (hb : b < 8) :
    (placeBytes x m).getLsbD (8 * q + b) =
      (decide (n - 1 - q < m) && x.getLsbD (8 * (n - 1 - q) + b)) := by
  induction m with
  | zero => simp [placeBytes]
  | succ m ih =>
    have hn : 8 * n / 8 = n := by omega
    rw [placeBytes, BitVec.getLsbD_or, ih (by omega), shiftLeft_eq, BitVec.getLsbD_shiftLeft,
      BitVec.getLsbD_setWidth, getLsbD_byteOf, hn]
    by_cases hqm : n - 1 - q = m
    · have hidx : 8 * q + b - 8 * (n - 1 - m) = b := by omega
      have hge : ¬ 8 * q + b < 8 * (n - 1 - m) := by omega
      have hlt : 8 * q + b < 8 * n := by omega
      have hbn : b < 8 * n := by omega
      simp [hidx, hge, hlt, hbn, hb, hqm]
    · have hiff : n - 1 - q < m ↔ n - 1 - q < m + 1 := by omega
      by_cases hlow : 8 * q + b < 8 * (n - 1 - m)
      · simp [hlow, hiff]
      · have hbyte : ¬ 8 * q + b - 8 * (n - 1 - m) < 8 := by omega
        simp [hbyte, hiff]

/-- Bit b of byte q of the swapped word is bit b of byte n-1-q of the word (41_bswap R67). -/
theorem getLsbD_bswap {n : Nat} (x : BitVec (8 * n)) {q b : Nat} (hq : q < n) (hb : b < 8) :
    (bswap x).getLsbD (8 * q + b) = x.getLsbD (8 * (n - 1 - q) + b) := by
  have hn : 8 * n / 8 = n := by omega
  rw [bswap, hn, getLsbD_placeBytes x le_rfl hq hb]
  have hlt : n - 1 - q < n := by omega
  simp [hlt]

/-- The bytes 0 .. m of x written one after another, byte 0 at the top: the form in which 41_bswap R68 to R71
write the swapped word. -/
def bytesReversed {W : Nat} (x : BitVec W) : (m : Nat) → BitVec (8 * (m + 1))
  | 0 => byteOf 0 x
  | m + 1 => bytesReversed x m ++ byteOf (m + 1) x

theorem getLsbD_bytesReversed {W : Nat} (x : BitVec W) {m q b : Nat} (hq : q ≤ m) (hb : b < 8) :
    (bytesReversed x m).getLsbD (8 * q + b) = x.getLsbD (8 * (m - q) + b) := by
  induction m generalizing q with
  | zero =>
    obtain rfl : q = 0 := by omega
    simp [bytesReversed, byteOf, hb]
  | succ m ih =>
    refine (BitVec.getLsbD_append ..).trans ?_
    cases q with
    | zero => simp [byteOf, hb]
    | succ q =>
      have hge : ¬ 8 * (q + 1) + b < 8 := by omega
      have hrest : 8 * (q + 1) + b - 8 = 8 * q + b := by omega
      simp [hge, hrest, ih (Nat.le_of_succ_le_succ hq)]

/-- The swap by extraction and reassembly is the word with its bytes in reverse order (41_bswap R67). -/
theorem bswap_eq_bytesReversed {m : Nat} (x : BitVec (8 * (m + 1))) : bswap x = bytesReversed x m := by
  apply BitVec.eq_of_getLsbD_eq
  intro i hi
  have hq : i / 8 < m + 1 := by omega
  have hb : i % 8 < 8 := by omega
  rw [← Nat.div_add_mod i 8, getLsbD_bswap x hq hb, getLsbD_bytesReversed x (by omega) hb]
  rfl

theorem bswap_eq_self (x : BitVec 8) : bswap x = x :=
  (bswap_eq_bytesReversed (m := 0) x).trans BitVec.extractLsb'_eq_self

end Sys2Proof.Machine
end

section
/-! PROOFS. The codes of a byte, read back from what the decoder answers (30_encoding R37 to R39). -/

namespace Sys2Proof

theorem fn_of_operationOfFn {fn : BitVec 2} {op : Operation} (h : operationOfFn fn = some op) :
    fn = fnOfOperation op := by
  unfold operationOfFn at h
  split_ifs at h with h0 h1 h2 <;> cases h
  exacts [h0, h1, h2]

theorem wsel_of_widthOfWsel {wsel : BitVec 3} {w : Width} (h : widthOfWsel wsel = some w) :
    wsel = wselOfWidth w := by
  unfold widthOfWsel at h
  split_ifs at h with h0 h1 h2 h3 <;> cases h
  exacts [h0, h1, h2, h3]

theorem operationOfFn_eq_none_iff (fn : BitVec 2) : operationOfFn fn = none ↔ fn = 0b11#2 := by
  revert fn
  decide

theorem widthOfWsel_eq_none {wsel : BitVec 3} (h : widthOfWsel wsel = none) : 4 ≤ wsel.toNat := by
  unfold widthOfWsel at h
  split_ifs at h
  bv_omega

theorem decode_of_reserved {b : Byte} (h : b.extractLsb' 5 3 ≠ 0b000#3) :
    decode b = .error .illegalCommand :=
  if_pos h

/-- The fields of an unassigned byte, by the error it raises, in the priority of 60_exceptions R79. -/
theorem fields_of_decode_error {b : Byte} {e : BpuError} (h : decode b = .error e) :
    (e = .illegalCommand ∧ (b.extractLsb' 5 3 ≠ 0b000#3 ∨ b.extractLsb' 0 2 = 0b11#2)) ∨
      (e = .unsupportedWidth ∧ b.extractLsb' 5 3 = 0b000#3 ∧ b.extractLsb' 0 2 ≠ 0b11#2 ∧
        4 ≤ (b.extractLsb' 2 3).toNat) := by
  by_cases hrsv : b.extractLsb' 5 3 = 0b000#3
  · replace h := (if_neg (not_not.2 hrsv)).symm.trans h
    split at h
    · next hop =>
      exact .inl ⟨(Except.error.inj h).symm, .inr ((operationOfFn_eq_none_iff _).1 hop)⟩
    · next op hop =>
      have hfn : b.extractLsb' 0 2 ≠ 0b11#2 := fun hfn =>
        nomatch hop.symm.trans ((operationOfFn_eq_none_iff _).2 hfn)
      split at h
      · next hw => exact .inr ⟨(Except.error.inj h).symm, hrsv, hfn, widthOfWsel_eq_none hw⟩
      · cases h
  · rw [decode_of_reserved hrsv] at h
    exact .inl ⟨(Except.error.inj h).symm, .inl hrsv⟩

/-- The three fields of a byte that decodes to a command (30_encoding R43). -/
theorem fields_of_decode_ok {b : Byte} {i : Instr} (h : decode b = .ok i) :
    b.extractLsb' 0 2 = fnOfOperation i.operation ∧ b.extractLsb' 2 3 = wselOfWidth i.width ∧
      b.extractLsb' 5 3 = 0b000#3 := by
  obtain ⟨op, w, hop, hw, rfl⟩ := decode_ok h
  rw [operation_of, width_of]
  refine ⟨fn_of_operationOfFn hop, wsel_of_widthOfWsel hw, ?_⟩
  by_contra hrsv
  rw [decode_of_reserved hrsv] at h
  cases h

end Sys2Proof
end

section
/-! PROOFS. A step on driven inputs answers with the function BPU of them (10_state R24; 60_exceptions R79). -/

namespace Sys2Proof.Machine

/-- The outputs of a rotate command: the range check, then the rotation (40_rotate R53). -/
def rotateOutputs (W : Nat) (f : BitVec W → Nat → BitVec W) (x : Inputs) : Outputs :=
  if 0 ≤ x.s.toInt ∧ x.s.toInt < W then
    { res := (f (x.a.setWidth W) x.s.toInt.toNat).setWidth 64, err := 0b00#2 }
  else raised .invalidShift

/-- The outputs of an assigned command, by its operation and width; `exec_of_some` ties them to the commands'
meanings and `bpu_of_decode_ok` to the function BPU. -/
def commandOutputs : Operation → Width → Inputs → Outputs
  | .rol, w, x => rotateOutputs w.bits rol x
  | .ror, w, x => rotateOutputs w.bits ror x
  | .bswap, w, x => { res := (bswap (x.a.setWidth w.bits)).setWidth 64, err := 0b00#2 }

theorem raise_eq_next_raised (e : BpuError) (s : State) : raise e s = .next (driveOutputs (raised e) s) := rfl

/-! The commands. -/

theorem swapCommand_bytesReversed (m : Nat) (s : State) :
    swapCommand (8 * (m + 1)) (fun v => bytesReversed v m) s = swapCommand (8 * (m + 1)) bswap s := by
  simp only [← bswap_eq_bytesReversed]

/-- Every byte-swap command of `exec` is the swap of 41_bswap R67. -/
theorem exec_swap (w : Width) (s : State) : exec (Instr.of .bswap w) s = swapCommand w.bits bswap s := by
  cases w with
  | w8 =>
    have hid : (fun v : BitVec 8 => v) = bswap := funext fun v => (bswap_eq_self v).symm
    exact congrArg (swapCommand 8 · s) hid
  | w16 => exact swapCommand_bytesReversed 1 s
  | w32 => exact swapCommand_bytesReversed 3 s
  | w64 => exact swapCommand_bytesReversed 7 s

/-- What each command answers on driven inputs; it changes nothing else. -/
theorem exec_of_some {s : State} {x : Inputs} (h : readInputs s = some x) (i : Instr) :
    exec i s = .next (driveOutputs (commandOutputs i.operation i.width x) s) := by
  have hi := of_operation_width i
  generalize i.operation = op, i.width = w at hi ⊢
  subst hi
  cases op with
  | rol =>
    rw [(exec_rotate_of_some h w).1, commandOutputs, rotateOutputs]
    split <;> rfl
  | ror =>
    rw [(exec_rotate_of_some h w).2, commandOutputs, rotateOutputs]
    split <;> rfl
  | bswap => exact (exec_swap w s).trans (swapCommand_of_some h _ _)

/-! The function BPU. -/

theorem eight_mul_two_pow_wselOfWidth (w : Width) : 8 * 2 ^ (wselOfWidth w).toNat = w.bits := by
  cases w <;> rfl

theorem wselOfWidth_lt (w : Width) : ¬ 4 ≤ (wselOfWidth w).toNat := by
  cases w <;> decide

/-- The range check of the pseudocode, which asks for the amounts out of range, is that of a rotate command. -/
theorem rotateOutputs_eq (W : Nat) (f : BitVec W → Nat → BitVec W) (x : Inputs) :
    rotateOutputs W f x =
      if x.s.toInt < 0 ∨ (W : Int) ≤ x.s.toInt then raised .invalidShift
      else { res := (f (x.a.setWidth W) x.s.toInt.toNat).setWidth 64, err := 0b00#2 } := by
  have hiff : x.s.toInt < 0 ∨ (W : Int) ≤ x.s.toInt ↔ ¬ (0 ≤ x.s.toInt ∧ x.s.toInt < W) := by omega
  rw [rotateOutputs, if_congr hiff rfl rfl, ite_not]

theorem bpu_of_decode_ok {x : Inputs} {i : Instr} (h : decode x.cmd = .ok i) :
    bpu x = commandOutputs i.operation i.width x := by
  obtain ⟨hfn, hwsel, hrsv⟩ := fields_of_decode_ok h
  rw [bpu, hfn, hwsel, hrsv]
  simp only [wselOfWidth_lt]
  rw [eight_mul_two_pow_wselOfWidth]
  cases i.operation with
  | rol => simp [fnOfOperation, commandOutputs, rotateOutputs_eq]
  | ror => simp [fnOfOperation, commandOutputs, rotateOutputs_eq]
  | bswap => simp [fnOfOperation, commandOutputs]

theorem bpu_of_decode_error {x : Inputs} {e : BpuError} (h : decode x.cmd = .error e) :
    bpu x = raised e := by
  obtain ⟨rfl, hillegal⟩ | ⟨rfl, hrsv, hfn, hwsel⟩ := fields_of_decode_error h
  · exact if_pos hillegal
  · have hlegal : ¬ (x.cmd.extractLsb' 5 3 ≠ 0b000#3 ∨ x.cmd.extractLsb' 0 2 = 0b11#2) := by
      simp [hrsv, hfn]
    exact (if_neg hlegal).trans (if_pos hwsel)

/-- A step on driven inputs answers with the function BPU of them and changes nothing else (10_state R24): both read
the byte as the decoder does. -/
theorem step_of_some {s : State} {x : Inputs} (h : readInputs s = some x) :
    step s = .next (driveOutputs (bpu x) s) := by
  cases hd : decode x.cmd with
  | error e => rw [step_of_decode_error h hd, bpu_of_decode_error hd, raise_eq_next_raised]
  | ok i => rw [step_of_decode_ok h hd, bpu_of_decode_ok hd, exec_of_some h]

end Sys2Proof.Machine
end

section
/-! PROOFS. The state (10_state): what a step reads, what it refuses, and the outputs it leaves. -/

namespace Sys2Proof.Machine

/-- A step that answers had driven inputs, and its outputs are the function BPU of them. -/
theorem step_eq_next_bpu {s t : State} (h : step s = .next t) :
    ∃ x, readInputs s = some x ∧ t = driveOutputs (bpu x) s := by
  obtain ⟨x, hx, -⟩ := step_eq_next h
  exact ⟨x, hx, by simpa [step_of_some hx] using h.symm⟩

/-! The invariant. -/

theorem portsCanonical_driveOutputs {s : State} (o : Outputs) (h : s.portsCanonical) :
    (driveOutputs o s).portsCanonical := h

theorem outputsSound_driveOutputs {s : State} {x : Inputs} (h : readInputs s = some x) :
    (driveOutputs (bpu x) s).outputsSound := by
  intro o ho
  exact ⟨x, (readInputs_driveOutputs _ s).trans h, (Option.some.inj ho).symm⟩

/-- Settles O39: a step leaves the ports as they are and writes the outputs BPU gives for them. -/
theorem stepKeepsSound : Obligations.StepKeepsSound := by
  intro st t hsound hstep
  obtain ⟨hports, -⟩ := hsound
  obtain ⟨x, hx, rfl⟩ := step_eq_next_bpu hstep
  exact ⟨portsCanonical_driveOutputs _ hports, outputsSound_driveOutputs hx⟩

/-! The transaction. -/

/-- Settles O31: the outputs are those BPU gives for the common inputs. -/
theorem equalInputsEqualOutputs : Obligations.EqualInputsEqualOutputs := by
  intro st st' x hx hx'
  exact ⟨bpu x, step_of_some hx, step_of_some hx'⟩

theorem ne_allOnes_iff {w : Nat} (v : BitVec w) :
    v ≠ BitVec.allOnes w ↔ ∃ i, i < w ∧ v.getLsbD i = false := by
  constructor
  · intro hne
    by_contra! hall
    refine hne (BitVec.eq_of_getLsbD_eq fun i hi => ?_)
    simpa [hi] using hall i hi
  · rintro ⟨i, hi, hbit⟩ rfl
    simp [hi] at hbit

/-- The undriven bits of 10_state R18 are what keeps the inputs from being read. -/
theorem hasUndrivenBit_iff (s : State) : s.hasUndrivenBit ↔ readInputs s = none := by
  simp only [State.hasUndrivenBit, readInputs_eq_none_iff, readPort_eq_none_iff, ne_allOnes_iff]

theorem step_eq_refused_iff (s : State) :
    step s = .refused .undrivenInput ↔ readInputs s = none := by
  refine ⟨fun h => ?_, step_of_none⟩
  cases hx : readInputs s with
  | none => rfl
  | some x => simp [step_of_some hx] at h

theorem exec_eq_refused_iff (i : Instr) (s : State) :
    exec i s = .refused .undrivenInput ↔ readInputs s = none := by
  refine ⟨fun h => ?_, exec_of_none i⟩
  cases hx : readInputs s with
  | none => rfl
  | some x => simp [exec_of_some hx] at h

/-- Settles O32: a bit is undriven exactly when the inputs cannot be read, and that is all that is refused. -/
theorem undrivenInputRefused : Obligations.UndrivenInputRefused := by
  intro st
  rw [hasUndrivenBit_iff]
  exact ⟨(step_eq_refused_iff st).symm, fun i => (exec_eq_refused_iff i st).symm⟩

/-! The width of the result. -/

/-- BPU raises an error, or it zero-extends a word of the width its `wsel` code selects (10_state R17). -/
theorem bpu_raised_or_extended (x : Inputs) :
    (∃ e, bpu x = raised e) ∨
      ∃ v : BitVec (8 * 2 ^ (x.cmd.extractLsb' 2 3).toNat),
        bpu x = { res := v.setWidth 64, err := 0b00#2 } := by
  unfold bpu
  simp only
  split_ifs
  · exact .inl ⟨_, rfl⟩
  · exact .inl ⟨_, rfl⟩
  · exact .inr ⟨_, rfl⟩
  · exact .inl ⟨_, rfl⟩
  · exact .inr ⟨_, rfl⟩
  · exact .inr ⟨_, rfl⟩

/-- Settles O36: the step's outputs are BPU's, an error's `res` is 0 and a zero-extended word has no bit above
its width. -/
theorem resultZeroExtended : Obligations.ResultZeroExtended := by
  intro st t x o hx hstep hout
  rw [step_of_some hx] at hstep
  cases hstep
  cases hout
  obtain ⟨e, he⟩ | ⟨v, hv⟩ := bpu_raised_or_extended x
  · simp [he, raised]
  · simp only [hv]
    refine ⟨fun herr => absurd rfl herr, fun i hi => ?_⟩
    rw [BitVec.getLsbD_setWidth, BitVec.getLsbD_of_ge _ _ hi, Bool.and_false]

/-! Sequences of transactions. -/

theorem transact_eq_next (x : Inputs) (s : State) :
    transact x s = .next (driveOutputs (bpu x) (present x s)) :=
  step_of_some (readInputs_present x s)

theorem session_cons (x : Inputs) (xs : List Inputs) (s : State) :
    session (x :: xs) s = some (bpu x) :: session xs (driveOutputs (bpu x) (present x s)) := by
  rw [session, transact_eq_next]
  rfl

/-- Settles O48, by induction on the list of transactions: each answers BPU of its own inputs, whatever state the
earlier ones left. -/
theorem sessionOutputsIndependent : Obligations.SessionOutputsIndependent := by
  intro xs
  induction xs with
  | nil => intro st; rfl
  | cons x xs ih => intro st; rw [session_cons, ih, List.map_cons]

/-! Old outputs. -/

theorem readInputs_of_out (s : State) (o : Option Outputs) : readInputs { s with out := o } = readInputs s := rfl

theorem driveOutputs_of_out (o : Outputs) (s : State) (o' : Option Outputs) :
    driveOutputs o { s with out := o' } = driveOutputs o s := rfl

/-- Settles O47: the inputs read are those of the ports, and the new outputs replace the old. -/
theorem oldOutputsNotRead : Obligations.OldOutputsNotRead := by
  constructor
  · intro st o t h
    obtain ⟨x, hx, rfl⟩ := step_eq_next_bpu h
    rw [step_of_some ((readInputs_of_out st o).trans hx), driveOutputs_of_out]
  · intro i st o t h
    obtain ⟨x, -, hx, -⟩ := exec_eq_next h
    rw [exec_of_some ((readInputs_of_out st o).trans hx), driveOutputs_of_out, ← exec_of_some hx, h]

end Sys2Proof.Machine
end

section
/-! PROOFS. The memory (20_memory): the unit has none, so a transaction writes its outputs and nothing else. -/

namespace Sys2Proof.Machine

/-- The frame of a transaction: driving the outputs leaves the input ports as the host holds them (20_memory R28). -/
theorem driveOutputs_frame (o : Outputs) (s : State) :
    (driveOutputs o s).cmd = s.cmd ∧ (driveOutputs o s).a = s.a ∧ (driveOutputs o s).s = s.s ∧
      ∃ o', driveOutputs o s = { s with out := some o' } :=
  ⟨rfl, rfl, rfl, o, rfl⟩

/-- Settles O43: a command that answers, and a step that answers, drives the outputs, and that has the frame. -/
theorem onlyOutputsChange : Obligations.OnlyOutputsChange := by
  constructor
  · intro i st t h
    obtain ⟨x, o, -, rfl⟩ := exec_eq_next h
    exact driveOutputs_frame o st
  · intro st t h
    obtain ⟨x, -, rfl⟩ := step_eq_next_bpu h
    exact driveOutputs_frame (bpu x) st

/-- The host samples the function BPU of the inputs it drives. -/
theorem sampled_step_of_some {s : State} {x : Inputs} (h : readInputs s = some x) :
    sampled (step s) = some (bpu x) := by
  rw [step_of_some h]
  rfl

/-- A transaction answered again gives the state it gave: it reads the same inputs, and the outputs it writes replace
those that stand there (20_memory R29). -/
theorem step_idempotent {s t : State} (h : step s = .next t) : step t = .next t := by
  obtain ⟨x, hx, rfl⟩ := step_eq_next_bpu h
  rw [step_of_some ((readInputs_driveOutputs _ s).trans hx), driveOutputs_driveOutputs]

/-- Settles O46: the step is idempotent and keeps its input ports, and any state with the same inputs samples BPU of
them. -/
theorem transactionIdempotent : Obligations.TransactionIdempotent := by
  intro st t h
  obtain ⟨hcmd, ha, hs, -⟩ := onlyOutputsChange.2 st t h
  refine ⟨step_idempotent h, hcmd, ha, hs, fun st' hsame => ?_⟩
  obtain ⟨x, hx, -⟩ := step_eq_next_bpu h
  rw [sampled_step_of_some hx, sampled_step_of_some (hsame.trans hx)]

end Sys2Proof.Machine
end

section
/-! PROOFS. The command byte: its layout, and the decoder against the encoder (30_encoding R36 to R43). -/

namespace Sys2Proof

/-! The layout. -/

theorem Command.toNat_toByte (c : Command) :
    c.toByte.toNat = c.rsv.toNat * 32 + c.wsel.toNat * 4 + c.fn.toNat := by
  have hfn := c.fn.isLt
  have hwsel := c.wsel.isLt
  rw [Command.toByte, BitVec.toNat_append, BitVec.toNat_append, ← Nat.shiftLeft_add_eq_or_of_lt hfn,
    ← Nat.shiftLeft_add_eq_or_of_lt hwsel]
  omega

theorem Command.toNat_fields_ofByte (b : Byte) :
    (Command.ofByte b).fn.toNat = b.toNat % 4 ∧ (Command.ofByte b).wsel.toNat = b.toNat / 4 % 8 ∧
      (Command.ofByte b).rsv.toNat = b.toNat / 32 := by
  have hb := b.isLt
  simp only [Command.ofByte, BitVec.extractLsb'_toNat, Nat.shiftRight_eq_div_pow, Nat.reducePow,
    Nat.div_one, true_and]
  omega

theorem Command.eq_of_fields {c d : Command} (hrsv : c.rsv = d.rsv) (hwsel : c.wsel = d.wsel)
    (hfn : c.fn = d.fn) : c = d := by
  cases c
  cases d
  cases hrsv
  cases hwsel
  cases hfn
  rfl

/-- The fields of a byte put together from fields are those fields: each is read back from the byte's value. -/
theorem Command.ofByte_toByte (c : Command) : Command.ofByte c.toByte = c := by
  have hfnLt := c.fn.isLt
  have hwselLt := c.wsel.isLt
  have hbyte := c.toNat_toByte
  obtain ⟨hfn, hwsel, hrsv⟩ := Command.toNat_fields_ofByte c.toByte
  replace hfn : (Command.ofByte c.toByte).fn = c.fn := BitVec.eq_of_toNat_eq (by omega)
  replace hwsel : (Command.ofByte c.toByte).wsel = c.wsel := BitVec.eq_of_toNat_eq (by omega)
  replace hrsv : (Command.ofByte c.toByte).rsv = c.rsv := BitVec.eq_of_toNat_eq (by omega)
  exact Command.eq_of_fields hrsv hwsel hfn

theorem Command.toByte_ofByte (b : Byte) : (Command.ofByte b).toByte = b := by
  obtain ⟨hfn, hwsel, hrsv⟩ := Command.toNat_fields_ofByte b
  apply BitVec.eq_of_toNat_eq
  rw [Command.toNat_toByte]
  omega

/-- Settles O51, by the values of a byte and of its fields. -/
theorem commandByteLayout : Obligations.CommandByteLayout :=
  ⟨fun c => ⟨c.toNat_toByte, c.ofByte_toByte⟩,
    fun b => ⟨Command.toByte_ofByte b, Command.toNat_fields_ofByte b⟩⟩

/-! The decoder and the encoder. -/

theorem operationOfFn_fnOfOperation (op : Operation) : operationOfFn (fnOfOperation op) = some op := by
  cases op <;> rfl

theorem widthOfWsel_wselOfWidth (w : Width) : widthOfWsel (wselOfWidth w) = some w := by
  cases w <;> rfl

theorem decode_encode (i : Instr) : decode (encode i) = .ok i := by
  rw [decode, encode, Command.ofByte_toByte]
  simp [commandOf, operationOfFn_fnOfOperation, widthOfWsel_wselOfWidth, of_operation_width]

theorem eq_encode_of_decode_ok {b : Byte} {i : Instr} (h : decode b = .ok i) : b = encode i := by
  obtain ⟨hfn, hwsel, hrsv⟩ := fields_of_decode_ok h
  have hfields : Command.ofByte b = commandOf i := by
    rw [Command.ofByte, hfn, hwsel, hrsv, commandOf]
  rw [encode, ← hfields, Command.toByte_ofByte]

theorem fnOfOperation_ne_reserved (op : Operation) : fnOfOperation op ≠ 0b11#2 := by
  cases op <;> decide

/-- The assigned bytes by their fields: the errors of the decoder are the other fields (30_encoding R43, R44). -/
theorem exists_decode_eq_ok_iff (b : Byte) :
    (∃ i, decode b = .ok i) ↔ b.extractLsb' 5 3 = 0b000#3 ∧ b.extractLsb' 0 2 ≠ 0b11#2 ∧
      (b.extractLsb' 2 3).toNat ≤ 0b011 := by
  cases hd : decode b with
  | ok i =>
    obtain ⟨hfn, hwsel, hrsv⟩ := fields_of_decode_ok hd
    have hsupported := Machine.wselOfWidth_lt i.width
    rw [hfn, hwsel]
    exact iff_of_true ⟨i, rfl⟩ ⟨hrsv, fnOfOperation_ne_reserved _, by omega⟩
  | error e =>
    refine ⟨fun ⟨_, h⟩ => (nomatch h), fun ⟨hrsv, hfn, hwsel⟩ => ?_⟩
    obtain ⟨-, hillegal⟩ | ⟨-, -, -, hunsupported⟩ := fields_of_decode_error hd
    · exact absurd hillegal (by simp [hrsv, hfn])
    · omega

/-- Settles O50: the fields of a byte determine it, so the decoder undoes the encoder and the other way round. -/
theorem encodeDecodeAgree : Obligations.EncodeDecodeAgree :=
  ⟨fun i _ => decode_encode i, fun _ _ h => eq_encode_of_decode_ok h, exists_decode_eq_ok_iff, rfl⟩

/-- Settles O53: the four assigned bytes are those of their commands, the last byte has a reserved bit set. -/
theorem writtenOutBytesDecode : Obligations.WrittenOutBytesDecode :=
  ⟨decode_encode .rol8, decode_encode .ror32, decode_encode .bswap64, decode_encode .bswap16, rfl, rfl,
    decode_of_reserved (by decide)⟩

/-- Settles O52: the codes of a byte that decodes are those of the operation and of the width. -/
theorem fieldCodesSelect : Obligations.FieldCodesSelect := by
  intro b i h
  obtain ⟨hfn, hwsel, -⟩ := fields_of_decode_ok h
  rw [hfn, hwsel, Machine.eight_mul_two_pow_wselOfWidth]
  cases i.operation <;> simp [fnOfOperation]

/-! The reserved bits. -/

theorem reserved_ne_zero_of_bit {b : Byte} {i : Nat} (hi : 5 ≤ i) (hbit : b.getLsbD i = true) :
    b.extractLsb' 5 3 ≠ 0b000#3 := by
  intro hrsv
  have hlt : i - 5 < 3 := by have := BitVec.lt_of_getLsbD hbit; omega
  have hrsvBit : (b.extractLsb' 5 3).getLsbD (i - 5) = b.getLsbD i := by
    rw [BitVec.getLsbD_extractLsb', Nat.add_sub_cancel' hi, decide_eq_true hlt, Bool.true_and]
  rw [hrsv, BitVec.getLsbD_zero, hbit] at hrsvBit
  cases hrsvBit

theorem decode_ofNat_of_reserved {b : Nat} (hb : b < 224) :
    decode (BitVec.ofNat 8 (32 + b)) = .error .illegalCommand := by
  apply decode_of_reserved
  intro hrsv
  obtain ⟨-, -, hval⟩ := Command.toNat_fields_ofByte (BitVec.ofNat 8 (32 + b))
  rw [Command.ofByte, hrsv, BitVec.toNat_ofNat, BitVec.toNat_ofNat] at hval
  omega

/-- What the 256 bytes decode to: the 32 with `rsv` = 0b000, then 7 * 32 that are illegal (30_encoding R44). -/
theorem map_decode_range :
    (List.range 256).map (fun b => decode (BitVec.ofNat 8 b)) =
      (List.range 32).map (fun b => decode (BitVec.ofNat 8 b)) ++
        List.replicate 224 (.error .illegalCommand) := by
  rw [List.range_add (n := 32) (m := 224), List.map_append, List.map_map, List.append_cancel_left_eq,
    List.eq_replicate_iff, List.forall_mem_map]
  exact ⟨by simp, fun b hb => decode_ofNat_of_reserved (List.mem_range.1 hb)⟩

end Sys2Proof
end

section
/-! PROOFS. The command at the ports: which errors are sampled, and what of the operands is read
(30_encoding R38 to R45). -/

namespace Sys2Proof.Machine

/-- Settles O27: the byte is illegal whatever its other fields hold. -/
theorem reservedBitsNotIgnored : Obligations.ReservedBitsNotIgnored := by
  rintro st x hx ⟨i, hi, hbit⟩
  rw [step_of_decode_error hx (decode_of_reserved (reserved_ne_zero_of_bit hi hbit))]
  exact Config.raise_result .illegalCommand st

/-- Settles O33: driven inputs can be read, and then a step and a command answer. -/
theorem drivenInputAnswered : Obligations.DrivenInputAnswered := by
  intro st hdriven
  rw [hasUndrivenBit_iff] at hdriven
  obtain ⟨x, hx⟩ := Option.ne_none_iff_exists'.1 hdriven
  exact ⟨⟨bpu x, step_of_some hx⟩, fun i => ⟨commandOutputs i.operation i.width x, exec_of_some hx i⟩⟩

/-! The command presented. -/

theorem withFetchWord_encode (i : Instr) (s : State) :
    s.withFetchWord 8 (encode i).toNat = presentCommand (encode i) s := by
  rw [State.withFetchWord, Nat.mod_eq_of_lt (encode i).isLt, BitVec.ofNat_toNat, BitVec.setWidth_eq]

/-- Settles O45: either way of presenting the byte drives every input, and the byte decodes to its command. -/
theorem presentedCommandRuns : Obligations.PresentedCommandRuns := by
  constructor
  · intro i a sh st
    exact step_of_decode_ok (readInputs_present _ st) (decode_encode i)
  · intro i st
    have hread := readInputs_presentCommand (encode i) st
    rw [withFetchWord_encode, hasUndrivenBit_iff, hread]
    exact ⟨step_of_decode_ok hread (decode_encode i), Option.some_ne_none _⟩

/-- The host samples the outputs of the command whose byte it presents. -/
theorem sampled_transact_encode (op : Operation) (w : Width) (a sh : PortWord) (s : State) :
    sampled (transact { cmd := encode (Instr.of op w), a := a, s := sh } s) =
      some (commandOutputs op w { cmd := encode (Instr.of op w), a := a, s := sh }) := by
  rw [transact, sampled_step_of_some (readInputs_present _ s), bpu_of_decode_ok (i := Instr.of op w),
    operation_of, width_of]
  exact decode_encode _

/-! What is read of the operands. -/

theorem setWidth_congr {W : Nat} {a a' : PortWord} (h : ∀ i, i < W → a.getLsbD i = a'.getLsbD i) :
    a.setWidth W = a'.setWidth W := by
  apply BitVec.eq_of_getLsbD_eq
  intro i hi
  rw [BitVec.getLsbD_setWidth, BitVec.getLsbD_setWidth, h i hi]

/-- A command reads the word operand and the shift amount, no more (30_encoding R40, R41). -/
theorem commandOutputs_congr {x x' : Inputs} {w : Width} (ha : x.a.setWidth w.bits = x'.a.setWidth w.bits)
    (hs : x.s = x'.s) (op : Operation) : commandOutputs op w x = commandOutputs op w x' := by
  cases op <;> simp only [commandOutputs, rotateOutputs, ha, hs]

/-- Settles O34: words that agree below W give the same word operand. -/
theorem upperBitsIgnored : Obligations.UpperBitsIgnored := by
  intro op w st st' a a' sh hlow
  rw [sampled_transact_encode, sampled_transact_encode, Option.some_inj]
  apply commandOutputs_congr
  · exact setWidth_congr hlow
  · rfl

/-- Settles O35: the outputs of a swap are the swapped word operand with `err` = 0b00, and `s` is not in them. -/
theorem swapIgnoresShift : Obligations.SwapIgnoresShift := by
  intro w st st' a sh sh'
  rw [sampled_transact_encode, sampled_transact_encode]
  exact ⟨rfl, _, rfl⟩

/-! The error codes sampled. -/

theorem errorCode_injective : Function.Injective errorCode := by
  intro e e'
  cases e <;> cases e' <;> decide

theorem noError_ne_errorCode (e : BpuError) : noError ≠ errorCode e := by
  cases e <;> decide

theorem rotateOutputs_err (W : Nat) (f : BitVec W → Nat → BitVec W) (x : Inputs) :
    (rotateOutputs W f x).err = noError ∨ (rotateOutputs W f x).err = errorCode .invalidShift := by
  rw [rotateOutputs]
  split
  · exact .inl rfl
  · exact .inr rfl

/-- An assigned command raises InvalidShift or no error (60_exceptions R75, R81). -/
theorem commandOutputs_err (op : Operation) (w : Width) (x : Inputs) :
    (commandOutputs op w x).err = noError ∨ (commandOutputs op w x).err = errorCode .invalidShift := by
  cases op with
  | rol => exact rotateOutputs_err _ _ x
  | ror => exact rotateOutputs_err _ _ x
  | bswap => exact .inl rfl

/-- An error other than InvalidShift is sampled exactly when the decoder raises it. -/
theorem bpu_err_eq_errorCode_iff {e : BpuError} (he : e ≠ .invalidShift) (x : Inputs) :
    (bpu x).err = errorCode e ↔ decode x.cmd = .error e := by
  cases hd : decode x.cmd with
  | error e' => rw [bpu_of_decode_error hd, raised, errorCode_injective.eq_iff, Except.error.injEq]
  | ok i =>
    refine iff_of_false (fun herr => ?_) (fun h => nomatch h)
    rw [bpu_of_decode_ok hd] at herr
    obtain hcode | hcode := commandOutputs_err i.operation i.width x
    · exact noError_ne_errorCode e (hcode.symm.trans herr)
    · exact he (errorCode_injective (herr.symm.trans hcode))

/-- The error codes over the 256 command bytes, the operands held; `map_sampled_eq_sampledErrors` ties them to what
the host samples. -/
def sampledErrors (a sh : PortWord) : List ErrCode :=
  (List.range 256).map fun b => (bpu { cmd := BitVec.ofNat 8 b, a := a, s := sh }).err

theorem map_sampled_eq_sampledErrors (a sh : PortWord) (st : State) :
    (List.range 256).map (fun b =>
      (sampled (transact { cmd := BitVec.ofNat 8 b, a := a, s := sh } st)).map Outputs.err) =
    (sampledErrors a sh).map some := by
  simp only [sampledErrors, List.map_map, transact, sampled_step_of_some (readInputs_present _ st)]
  rfl

theorem length_sampledErrors (a sh : PortWord) : (sampledErrors a sh).length = 256 := by
  rw [sampledErrors, List.length_map, List.length_range]

theorem count_errorCode_sampledErrors (a sh : PortWord) {e : BpuError} (he : e ≠ .invalidShift) :
    (sampledErrors a sh).count (errorCode e) =
      ((List.range 256).map fun b => decode (BitVec.ofNat 8 b)).count (.error e) := by
  rw [sampledErrors, List.count_eq_countP, List.count_eq_countP, List.countP_map, List.countP_map]
  congr 1
  funext b
  simp only [Function.comp_apply, beq_eq_decide, bpu_err_eq_errorCode_iff he]

/-- There are no error codes but the four of 60_exceptions R74. -/
theorem count_errCodes (l : List ErrCode) :
    l.count 0b00#2 + l.count 0b01#2 + l.count 0b10#2 + l.count 0b11#2 = l.length := by
  induction l with
  | nil => rfl
  | cons e l ih =>
    have hone : [e].count 0b00#2 + [e].count 0b01#2 + [e].count 0b10#2 + [e].count 0b11#2 = 1 := by
      revert e
      decide
    rw [← List.singleton_append]
    simp only [List.count_append, List.length_append, List.length_singleton]
    omega

/-- Settles O26: the decoder's errors are counted over the 32 bytes with `rsv` = 0b000 and the 224 others; the other
two codes are what is left of 256. -/
theorem commandBytesCounted : Obligations.CommandBytesCounted := by
  intro a sh st
  simp only [map_sampled_eq_sampledErrors, List.count_map_of_injective _ _ (Option.some_injective _)]
  have hillegal : (sampledErrors a sh).count (errorCode .illegalCommand) = 8 + 224 := by
    rw [count_errorCode_sampledErrors a sh (by decide), map_decode_range, List.count_append,
      List.count_replicate_self]
    decide
  have hwidth : (sampledErrors a sh).count (errorCode .unsupportedWidth) = 12 + 0 := by
    rw [count_errorCode_sampledErrors a sh (by decide), map_decode_range, List.count_append,
      List.count_replicate]
    decide
  have hall := count_errCodes (sampledErrors a sh)
  rw [length_sampledErrors] at hall
  simp only [errorCode] at hillegal hwidth
  omega

end Sys2Proof.Machine
end

section
/-! PROOFS. The assembler: names and lines (30_encoding R46, R47). -/

namespace Sys2Proof.Machine

/-! Names. -/

/-- The mnemonic without its width; `mnemonic_of` ties it to the mnemonics. -/
def mnemonicStem : Operation → String
  | .rol => "rol"
  | .ror => "ror"
  | .bswap => "bswap"

theorem mnemonic_of (op : Operation) (w : Width) :
    mnemonic (Instr.of op w) = mnemonicStem op ++ widthSuffix w := by
  cases op <;> cases w <;> decide

theorem namesOf_of (op : Operation) (w : Width) :
    namesOf (Instr.of op w) = (mnemonicStem op :: aliasStems op).map (· ++ widthSuffix w) := by
  rw [namesOf, mnemonic_of, operation_of, width_of, List.map_cons]

/-- No name stands for two commands. -/
theorem instrOfName_of_mem_namesOf (i : Instr) : ∀ name ∈ namesOf i, instrOfName name = some i := by
  cases i <;> decide

theorem instrOfName_mnemonic (i : Instr) : instrOfName (mnemonic i) = some i :=
  instrOfName_of_mem_namesOf i _ List.mem_cons_self

theorem instrOfName_stem {op : Operation} {stem : String} (h : stem ∈ mnemonicStem op :: aliasStems op)
    (w : Width) : instrOfName (stem ++ widthSuffix w) = some (Instr.of op w) := by
  apply instrOfName_of_mem_namesOf
  rw [namesOf_of]
  exact List.mem_map_of_mem h

/-- Settles O55: the names are the stems of the operation with the width's suffix. -/
theorem aliasesNameTheCommand : Obligations.AliasesNameTheCommand := by
  intro w
  exact ⟨instrOfName_stem (by decide) w, instrOfName_stem (by decide) w, instrOfName_stem (by decide) w,
    instrOfName_stem (by decide) w, instrOfName_stem (by decide) w, instrOfName_stem (by decide) w,
    instrOfName_stem (by decide) w⟩

/-! Lines. -/

theorem patternA_toNat (a : PortWord) : patternA a.toNat = .ok a := by
  simp [patternA]

theorem patternS_toInt (s : PortWord) : patternS s.toInt = .ok s := by
  simp [patternS]

theorem assembleRotate_literals (i : Instr) (names : List (String × Int)) (a s : PortWord) :
    assembleRotate i names (.literal a.toNat) (.literal s.toInt) = .ok { cmd := encode i, a := a, s := s } := by
  simp only [assembleRotate, operandValue, patternA_toNat, patternS_toInt]

theorem assembleSwap_literal (i : Instr) (names : List (String × Int)) (a : PortWord) :
    assembleSwap i names (.literal a.toNat) = .ok { cmd := encode i, a := a, s := 0 } := by
  simp only [assembleSwap, operandValue, patternA_toNat]

/-- Settles O56: the mnemonic names its command, the operation chooses the form, and the literals read back as the
patterns they stand for. -/
theorem assembledLinePresents : Obligations.AssembledLinePresents := by
  intro names w a sh
  constructor
  · intro op hop
    cases op with
    | rol => simp only [assemble, instrOfName_mnemonic, operation_of, assembleRotate_literals]
    | ror => simp only [assemble, instrOfName_mnemonic, operation_of, assembleRotate_literals]
    | bswap => exact absurd rfl hop
  · simp only [assemble, instrOfName_mnemonic, operation_of, assembleSwap_literal]

end Sys2Proof.Machine
end

section
/-! PROOFS. The rotations on words: bit by bit, and the laws that follow (40_rotate R51, R52, R62 to R65). The laws
are proved for the amounts 0 to W, W included, so that a left rotation is a right one by the rest of W. -/

namespace Sys2Proof.Machine

section Words

variable {W : Nat} (x : BitVec W)

/-! One rotation in terms of the other. -/

/-- The two shifts of R51 trade places. -/
theorem ror_sub {k : Nat} (hk : k ≤ W) : ror x (W - k) = rol x k := by
  rw [ror, rol, Nat.sub_sub_self hk, BitVec.or_comm]

theorem rol_sub {k : Nat} (hk : k ≤ W) : rol x (W - k) = ror x k := by
  rw [← ror_sub x (Nat.sub_le W k), Nat.sub_sub_self hk]

/-! The bits (R52). -/

theorem getLsbD_ror {k i : Nat} (hk : k ≤ W) (hi : i < W) :
    (ror x k).getLsbD i = x.getLsbD ((i + k) % W) := by
  rw [ror, BitVec.getLsbD_or, shiftRight_eq, shiftLeft_eq, BitVec.getLsbD_ushiftRight,
    BitVec.getLsbD_shiftLeft, Nat.add_comm k i]
  by_cases hwrap : i + k < W
  · have hlow : i < W - k := by omega
    simp [Nat.mod_eq_of_lt hwrap, hlow]
  · have hhigh : ¬ i < W - k := by omega
    have hout : x.getLsbD (i + k) = false := BitVec.getLsbD_of_ge x _ (by omega)
    have hmod : (i + k) % W = i - (W - k) := by
      rw [Nat.mod_eq_sub_mod (by omega), Nat.mod_eq_of_lt (by omega)]
      omega
    simp [hmod, hhigh, hout, hi]

theorem getLsbD_rol {k i : Nat} (hk : k ≤ W) (hi : i < W) :
    (rol x k).getLsbD i = x.getLsbD ((i + (W - k)) % W) := by
  rw [← ror_sub x hk, getLsbD_ror x (Nat.sub_le W k) hi]

/-! Composition (R62 to R64). -/

@[simp] theorem ror_zero : ror x 0 = x := by
  rw [ror, shiftLeft_eq_zero x (Nat.sub_zero W).ge, shiftRight_eq, BitVec.ushiftRight_zero]
  exact BitVec.or_zero

@[simp] theorem rol_zero : rol x 0 = x := by
  rw [rol, shiftRight_eq_zero x (Nat.sub_zero W).ge, shiftLeft_eq, BitVec.shiftLeft_zero]
  exact BitVec.or_zero

/-- The amounts of two right rotations add up modulo W. -/
theorem ror_ror {k l m : Nat} (hk : k ≤ W) (hl : l ≤ W) (hm : m ≤ W) (h : l + k ≡ m [MOD W]) :
    ror (ror x k) l = ror x m := by
  apply BitVec.eq_of_getLsbD_eq
  intro i hi
  have hidx : ((i + l) % W + k) % W = (i + m) % W := by
    rw [Nat.mod_add_mod, Nat.add_assoc]
    exact h.add_left i
  rw [getLsbD_ror _ hl hi, getLsbD_ror x hk (Nat.mod_lt _ (by omega)), getLsbD_ror x hm hi, hidx]

/-- A left rotation is undone by the right one: together they turn the word once around. -/
theorem ror_rol {k : Nat} (hk : k ≤ W) : ror (rol x k) k = x := by
  have hturn : k + (W - k) ≡ 0 [MOD W] := by
    rw [Nat.add_sub_cancel' hk]
    exact Nat.mod_self W
  rw [← ror_sub x hk, ror_ror x (Nat.sub_le W k) hk (Nat.zero_le W) hturn, ror_zero]

theorem rol_ror {k : Nat} (hk : k ≤ W) : rol (ror x k) k = x := by
  rw [← rol_sub x hk, ← ror_sub _ hk, ror_rol x (Nat.sub_le W k)]

/-- The left rotations compose because they undo right ones that do. -/
theorem rol_rol {k l m : Nat} (hk : k ≤ W) (hl : l ≤ W) (hm : m ≤ W) (h : k + l ≡ m [MOD W]) :
    rol (rol x k) l = rol x m := by
  calc rol (rol x k) l
      = rol (rol (ror (rol x m) m) k) l := by rw [ror_rol x hm]
    _ = rol (rol (ror (ror (rol x m) l) k) k) l := by rw [ror_ror _ hl hk hm h]
    _ = rol x m := by rw [rol_ror _ hk, rol_ror _ hl]

/-! The set bits (R65). -/

/-- The bits of a word, the least significant first; `setBits_eq_count` ties them to the number of set bits. -/
def bitsOf : List Bool := (List.range W).map x.getLsbD

theorem setBits_eq_count : setBits x = (bitsOf x).count true := by
  rw [setBits, bitsOf, ← List.countP_eq_length_filter, List.count_eq_countP, List.countP_map]
  congr 1
  funext i
  exact (beq_true _).symm

/-- A right rotation of a word turns the list of its bits to the left. -/
theorem bitsOf_ror {k : Nat} (hk : k ≤ W) : bitsOf (ror x k) = (bitsOf x).rotate k := by
  apply List.ext_getElem
  · simp [bitsOf]
  · intro i hi _
    have hiW : i < W := by simpa [bitsOf] using hi
    simp [bitsOf, List.getElem_rotate, getLsbD_ror x hk hiW]

theorem setBits_ror {k : Nat} (hk : k ≤ W) : setBits (ror x k) = setBits x := by
  rw [setBits_eq_count, setBits_eq_count, bitsOf_ror x hk, (List.rotate_perm _ k).count_eq]

theorem setBits_rol {k : Nat} (hk : k ≤ W) : setBits (rol x k) = setBits x := by
  rw [← ror_sub x hk, setBits_ror x (Nat.sub_le W k)]

end Words

/-! The indices of R52 are integers modulo W. -/

theorem toNat_add_emod (W i k : Nat) : (((i : Int) + k) % W).toNat = (i + k) % W := by
  rw [← Int.natCast_add, ← Int.natCast_emod, Int.toNat_natCast]

theorem toNat_sub_emod {W k : Nat} (hk : k ≤ W) (i : Nat) :
    (((i : Int) - k) % W).toNat = (i + (W - k)) % W := by
  rw [← toNat_add_emod, Int.natCast_sub hk, ← Int.add_emod_right, add_sub_left_comm, add_comm]

/-- Going k places one way round and the rest of W the same way ends at the beginning. -/
theorem add_mod_add_mod_cancel {W k l i : Nat} (hi : i < W) (hkl : k + l = W) : ((i + k) % W + l) % W = i := by
  rw [Nat.mod_add_mod, Nat.add_assoc, hkl, Nat.add_mod_right, Nat.mod_eq_of_lt hi]

/-- Settles O13: bit i comes from where the two bit laws say, so the bit that goes to i is the one they find there. -/
theorem rotationMovesBits : Obligations.RotationMovesBits := by
  intro W x k i hk hi
  have hmod (j : Nat) : j % W < W := Nat.mod_lt j (by omega)
  simp only [toNat_add_emod, toNat_sub_emod hk.le]
  refine ⟨getLsbD_rol x hk.le hi, getLsbD_ror x hk.le hi, ?_, ?_⟩
  · rw [getLsbD_rol x hk.le (hmod _), add_mod_add_mod_cancel hi (Nat.add_sub_cancel' hk.le)]
  · rw [getLsbD_ror x hk.le (hmod _), add_mod_add_mod_cancel hi (Nat.sub_add_cancel hk.le)]

/-- Settles O14, by the two laws that undo a rotation. -/
theorem rotationUndone : Obligations.RotationUndone := by
  intro W x k hk
  exact ⟨ror_rol x hk.le, rol_ror x hk.le⟩

end Sys2Proof.Machine
end

section
/-! PROOFS. The rotate commands (40_rotate R53 to R61) and the laws of the rotations at the ports (R62 to R65). -/

namespace Sys2Proof.Machine

/-! The range check (R53). -/

theorem rotateOutputs_of_inRange {W k : Nat} {x : Inputs} (hk : k < W) (hs : x.s.toInt = k)
    (f : BitVec W → Nat → BitVec W) :
    rotateOutputs W f x = { res := (f (x.a.setWidth W) k).setWidth 64, err := 0b00#2 } := by
  have hrange : 0 ≤ x.s.toInt ∧ x.s.toInt < W := by omega
  rw [rotateOutputs, if_pos hrange, hs, Int.toNat_natCast]

theorem rotateOutputs_of_outOfRange {W : Nat} {x : Inputs} (hs : x.s.toInt < 0 ∨ (W : Int) ≤ x.s.toInt)
    (f : BitVec W → Nat → BitVec W) : rotateOutputs W f x = raised .invalidShift := by
  rw [rotateOutputs_eq, if_pos hs]

/-- What a rotate command by `f` answers, its amount in range and out of range; it changes nothing else. -/
theorem exec_rotate {op : Operation} {w : Width} {f : BitVec w.bits → Nat → BitVec w.bits}
    (hf : ∀ x, commandOutputs op w x = rotateOutputs w.bits f x) (st : State) (x : Inputs)
    (hx : readInputs st = some x) :
    (∀ k : Nat, k < w.bits → x.s.toInt = k →
      exec (Instr.of op w) st = .next { st with out := some {
        res := (f (x.a.setWidth w.bits) k).setWidth 64, err := 0b00#2 } }) ∧
    (x.s.toInt < 0 ∨ (w.bits : Int) ≤ x.s.toInt →
      exec (Instr.of op w) st = .next { st with out := some { res := 0, err := 0b01#2 } }) := by
  rw [exec_of_some hx, operation_of, width_of, hf]
  refine ⟨fun k hk hs => ?_, fun hs => ?_⟩
  · rw [rotateOutputs_of_inRange hk hs]
    rfl
  · rw [rotateOutputs_of_outOfRange hs]
    rfl

/-- Settles O22: each of the two rotates makes the range check. -/
theorem outOfRangeShiftRejected : Obligations.OutOfRangeShiftRejected := by
  intro op w st x hop hx
  cases op with
  | rol => exact (exec_rotate (fun _ => rfl) st x hx).2
  | ror => exact (exec_rotate (fun _ => rfl) st x hx).2
  | bswap => exact absurd rfl hop

/-! The eight commands (R54 to R61), whose rules write the rotations out in the library's shifts. -/

theorem commandOutputs_rol (w : Width) (x : Inputs) :
    commandOutputs .rol w x = rotateOutputs w.bits (fun v k => v <<< k ||| v >>> (w.bits - k)) x := by
  simp only [commandOutputs, ← shiftLeft_eq, ← shiftRight_eq]
  rfl

theorem commandOutputs_ror (w : Width) (x : Inputs) :
    commandOutputs .ror w x = rotateOutputs w.bits (fun v k => v >>> k ||| v <<< (w.bits - k)) x := by
  simp only [commandOutputs, ← shiftLeft_eq, ← shiftRight_eq]
  rfl

/-- Settles O1: the left rotate at 8 bits. -/
theorem rotateLeft8Result : Obligations.RotateLeft8Result :=
  ⟨decode_encode .rol8, exec_rotate (commandOutputs_rol .w8)⟩

/-- Settles O2: the left rotate at 16 bits. -/
theorem rotateLeft16Result : Obligations.RotateLeft16Result :=
  ⟨decode_encode .rol16, exec_rotate (commandOutputs_rol .w16)⟩

/-- Settles O3: the left rotate at 32 bits. -/
theorem rotateLeft32Result : Obligations.RotateLeft32Result :=
  ⟨decode_encode .rol32, exec_rotate (commandOutputs_rol .w32)⟩

/-- Settles O4: the left rotate at 64 bits, where the word operand is the whole of `a`. -/
theorem rotateLeft64Result : Obligations.RotateLeft64Result :=
  ⟨decode_encode .rol64, exec_rotate (commandOutputs_rol .w64)⟩

/-- Settles O5: the right rotate at 8 bits. -/
theorem rotateRight8Result : Obligations.RotateRight8Result :=
  ⟨decode_encode .ror8, exec_rotate (commandOutputs_ror .w8)⟩

/-- Settles O6: the right rotate at 16 bits. -/
theorem rotateRight16Result : Obligations.RotateRight16Result :=
  ⟨decode_encode .ror16, exec_rotate (commandOutputs_ror .w16)⟩

/-- Settles O7: the right rotate at 32 bits. -/
theorem rotateRight32Result : Obligations.RotateRight32Result :=
  ⟨decode_encode .ror32, exec_rotate (commandOutputs_ror .w32)⟩

/-- Settles O8: the right rotate at 64 bits, where the word operand is the whole of `a`. -/
theorem rotateRight64Result : Obligations.RotateRight64Result :=
  ⟨decode_encode .ror64, exec_rotate (commandOutputs_ror .w64)⟩

/-! The laws at the ports. -/

theorem bpu_encode (op : Operation) (w : Width) (a sh : PortWord) :
    bpu { cmd := encode (Instr.of op w), a := a, s := sh } =
      commandOutputs op w { cmd := encode (Instr.of op w), a := a, s := sh } := by
  rw [bpu_of_decode_ok (i := Instr.of op w), operation_of, width_of]
  exact decode_encode _

/-- A word of W bits comes back from the 64-bit port it was zero-extended to. -/
theorem setWidth_setWidth_port (w : Width) (v : BitVec w.bits) : (v.setWidth 64).setWidth w.bits = v := by
  have hle : w.bits ≤ 64 := by cases w <;> decide
  rw [BitVec.setWidth_setWidth_of_le _ hle, BitVec.setWidth_eq]

/-- Where g undoes f on words, the host undoes a rotate command by f with one by g. -/
theorem transact_undone {op op' : Operation} {w : Width} {f g : BitVec w.bits → Nat → BitVec w.bits}
    (hf : ∀ x, commandOutputs op w x = rotateOutputs w.bits f x)
    (hg : ∀ x, commandOutputs op' w x = rotateOutputs w.bits g x)
    (hgf : ∀ v k, k < w.bits → g (f v k) k = v)
    (st : State) (a : PortWord) {sh : PortWord} (hnonneg : 0 ≤ sh.toInt) (hlt : sh.toInt < w.bits) :
    ∃ (r : PortWord) (t : State),
      transact { cmd := encode (Instr.of op w), a := a, s := sh } st = .next t ∧
      t.out = some { res := r, err := 0b00#2 } ∧
      sampled (transact { cmd := encode (Instr.of op' w), a := r, s := sh } t) =
        some { res := (a.setWidth w.bits).setWidth 64, err := 0b00#2 } := by
  obtain ⟨k, hs⟩ := Int.eq_ofNat_of_zero_le hnonneg
  have hk : k < w.bits := by omega
  refine ⟨(f (a.setWidth w.bits) k).setWidth 64, _, transact_eq_next _ st, ?_, ?_⟩
  · rw [driveOutputs_out, bpu_encode, hf, rotateOutputs_of_inRange hk hs]
  · rw [sampled_transact_encode, hg, rotateOutputs_of_inRange hk hs, setWidth_setWidth_port, hgf _ k hk]

/-- Settles O15: either rotation of the words undoes the other. -/
theorem rotationUndoneAtPorts : Obligations.RotationUndoneAtPorts := by
  intro w st a sh hnonneg hlt
  exact ⟨transact_undone (fun _ => rfl) (fun _ => rfl) (fun v _ hk => ror_rol v hk.le) st a hnonneg hlt,
    transact_undone (fun _ => rfl) (fun _ => rfl) (fun v _ hk => rol_ror v hk.le) st a hnonneg hlt⟩

theorem bits_pos (w : Width) : 0 < w.bits := by
  cases w <;> decide

/-- Settles O16: the amount 0 is in range at every width, and rotates nothing. -/
theorem rotationByZeroIsIdentity : Obligations.RotationByZeroIsIdentity := by
  refine ⟨fun W x => ⟨rol_zero x, ror_zero x⟩, fun op w st x hop hx hzero => ?_⟩
  have hs : x.s.toInt = (0 : Nat) := congrArg BitVec.toInt hzero
  cases op with
  | rol =>
    have hout := (exec_rotate (op := .rol) (f := rol) (fun _ => rfl) st x hx).1 0 (bits_pos w) hs
    rwa [rol_zero] at hout
  | ror =>
    have hout := (exec_rotate (op := .ror) (f := ror) (fun _ => rfl) st x hx).1 0 (bits_pos w) hs
    rwa [ror_zero] at hout
  | bswap => exact absurd rfl hop

/-- Settles O17: amounts add up modulo W on words, and at the ports a sum of W or more is out of range. -/
theorem rotationsCompose : Obligations.RotationsCompose := by
  refine ⟨fun W x k l h => ?_, fun W x k l hk hl h => ?_, fun op w st x k l hop hx hs h => ?_⟩
  · exact ⟨rol_rol x (by omega) (by omega) h.le rfl,
      ror_ror x (by omega) (by omega) h.le (by rw [Nat.add_comm])⟩
  · have hle : k + l - W ≤ W := by omega
    have hmod : k + l ≡ k + l - W [MOD W] := Nat.mod_eq_sub_mod h
    exact ⟨rol_rol x hk.le hl.le hle hmod, ror_ror x hk.le hl.le hle (by rwa [Nat.add_comm])⟩
  · exact outOfRangeShiftRejected op w st x hop hx (.inr (by omega))

/-- Settles O18: each rotation is the other by the rest of W and turns the list of the bits; the amount W is out of
range at the ports. -/
theorem rotationsMirror : Obligations.RotationsMirror :=
  ⟨fun _ x _ _ hk => ⟨(rol_sub x hk.le).symm, (ror_sub x hk.le).symm⟩,
    fun op w st x hop hx hs => outOfRangeShiftRejected op w st x hop hx (.inr hs.ge),
    fun _ x _ hk => ⟨setBits_rol x hk.le, setBits_ror x hk.le⟩⟩

end Sys2Proof.Machine
end

section
/-! PROOFS. The byte swap on words: bytes and bits in their new places, the involution, and the swap beside the
rotations (41_bswap R67, R72, R73). -/

namespace Sys2Proof.Machine

section Words

variable {n : Nat} (x : BitVec (8 * n))

/-! Bytes and bits. -/

theorem byteOf_bswap {k : Nat} (hk : k < n) : byteOf k (bswap x) = byteOf (n - 1 - k) x := by
  apply BitVec.eq_of_getLsbD_eq
  intro b hb
  rw [getLsbD_byteOf, getLsbD_byteOf, getLsbD_bswap x hk hb]

/-- The bit law of the swap, for a bit named by its place in the word. -/
theorem getLsbD_bswap_of_lt {i : Nat} (hi : i < 8 * n) :
    (bswap x).getLsbD i = x.getLsbD (8 * (n - 1 - i / 8) + i % 8) := by
  have hq : i / 8 < n := by omega
  have hb : i % 8 < 8 := by omega
  rw [← getLsbD_bswap x hq hb, Nat.div_add_mod]

/-- Settles O19: the bytes trade places end for end, and with them their bits. -/
theorem swapReversesBytes : Obligations.SwapReversesBytes := by
  intro n x k hk
  refine ⟨byteOf_bswap x hk, fun b hb => ?_⟩
  rw [getLsbD_bswap x (by omega) hb, Nat.sub_sub_self (by omega)]

/-! The bytes and the set bits are kept. -/

theorem bytesOf_bswap : bytesOf (bswap x) = (bytesOf x).reverse := by
  have hn : 8 * n / 8 = n := by omega
  rw [bytesOf, bytesOf, hn]
  apply List.ext_getElem
  · simp
  · intro k hk _
    have hkn : k < n := by simpa using hk
    simp [byteOf_bswap x hkn]

/-- Reading c * m values in order is reading m groups of c. -/
theorem map_range_mul {α : Type} (f : Nat → α) (c m : Nat) :
    (List.range (c * m)).map f = (List.range m).flatMap fun q => (List.range c).map fun b => f (c * q + b) := by
  induction m with
  | zero => simp
  | succ m ih => simp [Nat.mul_succ, List.range_add, List.range_succ, List.flatMap_append, ih]

/-- The bits of a word are those of its bytes, one byte after another. -/
theorem bitsOf_eq_flatMap : bitsOf x = (bytesOf x).flatMap bitsOf := by
  have hn : 8 * n / 8 = n := by omega
  rw [bitsOf, bytesOf, hn, map_range_mul, List.flatMap_map]
  refine congrArg (List.flatMap · _) (funext fun q => List.map_congr_left fun b hb => ?_)
  rw [getLsbD_byteOf, decide_eq_true (List.mem_range.1 hb), Bool.true_and]

theorem bytesOf_bswap_perm : (bytesOf (bswap x)).Perm (bytesOf x) := by
  rw [bytesOf_bswap]
  exact List.reverse_perm _

theorem setBits_bswap : setBits (bswap x) = setBits x := by
  rw [setBits_eq_count, setBits_eq_count, bitsOf_eq_flatMap, bitsOf_eq_flatMap]
  exact ((bytesOf_bswap_perm x).flatMap_right _).count_eq true

end Words

/-! The involution (R72). -/

theorem bswap_bswap {W n : Nat} (hW : W = 8 * n) (x : BitVec W) : bswap (bswap x) = x := by
  subst hW
  apply BitVec.eq_of_getLsbD_eq
  intro i hi
  have hq : n - 1 - i / 8 < n := by omega
  have hback : n - 1 - (n - 1 - i / 8) = i / 8 := by omega
  rw [getLsbD_bswap_of_lt _ hi, getLsbD_bswap x hq (Nat.mod_lt i (by omega)), hback, Nat.div_add_mod]

/-- Settles O20: the word comes back from the port, and the second swap undoes the first. -/
theorem swapUndone : Obligations.SwapUndone := by
  refine ⟨fun n x => bswap_bswap rfl x, fun w st a sh sh' => ?_⟩
  refine ⟨(bswap (a.setWidth w.bits)).setWidth 64, _, transact_eq_next _ st, ?_, ?_⟩
  · rw [driveOutputs_out, bpu_encode]
    rfl
  · rw [sampled_transact_encode, commandOutputs, setWidth_setWidth_port,
      bswap_bswap (Config.whole_bytes w).symm]

/-! The swap beside the rotations (R73). -/

theorem bswap_eq_rol (x : BitVec 16) : bswap x = rol x 8 := by
  apply BitVec.eq_of_getLsbD_eq
  intro i hi
  have hidx : 8 * (2 - 1 - i / 8) + i % 8 = (i + (16 - 8)) % 16 := by omega
  rw [getLsbD_rol x (by omega) hi, getLsbD_bswap_of_lt (n := 2) x hi, hidx]

theorem bswap_eq_ror (x : BitVec 16) : bswap x = ror x 8 :=
  (bswap_eq_rol x).trans (ror_sub x (k := 8) (by omega)).symm

/-- Settles O21: up to 16 bits the swap is a rotation, the two longer words are compared with each of their rotations,
and at any width the bytes are those of the word in reverse order. -/
theorem swapAgainstRotations : Obligations.SwapAgainstRotations :=
  ⟨bswap_eq_self, fun x => ⟨bswap_eq_rol x, bswap_eq_ror x⟩, by decide, by decide,
    ⟨0x0123456789ABCDEF#64, by decide⟩, fun _ => bytesOf_bswap_perm, fun _ => setBits_bswap⟩

end Sys2Proof.Machine
end

section
/-! PROOFS. The byte-swap commands (41_bswap R68 to R71). -/

namespace Sys2Proof.Machine

theorem byteOf_setWidth {W k : Nat} (hk : 8 * k + 8 ≤ W) (a : PortWord) :
    byteOf k (a.setWidth W) = byteOf k a := by
  apply BitVec.eq_of_getLsbD_eq
  intro b hb
  have hlt : 8 * k + b < W := by omega
  simp [getLsbD_byteOf, hlt]

/-- The bytes of the word operand are the low bytes of port `a` (30_encoding R40). -/
theorem bytesReversed_setWidth {W m : Nat} (hm : 8 * (m + 1) ≤ W) (a : PortWord) :
    bytesReversed (a.setWidth W) m = bytesReversed a m := by
  induction m with
  | zero => exact byteOf_setWidth hm a
  | succ m ih => rw [bytesReversed, bytesReversed, ih (by omega), byteOf_setWidth hm]

theorem bswap_setWidth {W m : Nat} (hW : W = 8 * (m + 1)) (a : PortWord) :
    (bswap (a.setWidth W)).setWidth 64 = (bytesReversed a m).setWidth 64 := by
  subst hW
  rw [bswap_eq_bytesReversed, bytesReversed_setWidth le_rfl]

/-- What a byte-swap command answers, its bytes 0 to m written one after another as its rule writes them; port `s` is
not in it, and nothing else changes. -/
theorem exec_swap_bytes {w : Width} {m : Nat} (hw : w.bits = 8 * (m + 1)) (st : State) (x : Inputs)
    (hx : readInputs st = some x) :
    exec (Instr.of .bswap w) st = .next { st with out := some {
      res := (bytesReversed x.a m).setWidth 64, err := 0b00#2 } } := by
  rw [exec_swap, swapCommand_of_some hx, bswap_setWidth hw]
  rfl

/-- Settles O9: the swap of one byte. -/
theorem byteSwap8Result : Obligations.ByteSwap8Result :=
  ⟨decode_encode .bswap8, exec_swap_bytes (w := .w8) (m := 0) rfl⟩

/-- Settles O10: the swap of two bytes. -/
theorem byteSwap16Result : Obligations.ByteSwap16Result :=
  ⟨decode_encode .bswap16, exec_swap_bytes (w := .w16) (m := 1) rfl⟩

/-- Settles O11: the swap of four bytes. -/
theorem byteSwap32Result : Obligations.ByteSwap32Result :=
  ⟨decode_encode .bswap32, exec_swap_bytes (w := .w32) (m := 3) rfl⟩

/-- Settles O12: the swap of eight bytes, where the word operand is the whole of `a`. -/
theorem byteSwap64Result : Obligations.ByteSwap64Result :=
  ⟨decode_encode .bswap64, exec_swap_bytes (w := .w64) (m := 7) rfl⟩

end Sys2Proof.Machine
end

section
/-! PROOFS. The errors of a command byte: its fields, and the bytes themselves (60_exceptions R76, R77). -/

namespace Sys2Proof

/-- The three fields of a byte as numbers, taken from its value. -/
theorem toNat_extractLsb'_fields (b : Byte) :
    (b.extractLsb' 0 2).toNat = b.toNat % 4 ∧ (b.extractLsb' 2 3).toNat = b.toNat / 4 % 8 ∧
      (b.extractLsb' 5 3).toNat = b.toNat / 32 :=
  Command.toNat_fields_ofByte b

/-- The converse of `fields_of_decode_error` for the width: neither a command nor the other error has these fields. -/
theorem decode_eq_unsupportedWidth_iff (b : Byte) :
    decode b = .error .unsupportedWidth ↔
      b.extractLsb' 5 3 = 0b000#3 ∧ b.extractLsb' 0 2 ≠ 0b11#2 ∧ 4 ≤ (b.extractLsb' 2 3).toNat := by
  constructor
  · intro h
    obtain ⟨he, -⟩ | ⟨-, hfields⟩ := fields_of_decode_error h
    · cases he
    · exact hfields
  · rintro ⟨hrsv, hfn, hwsel⟩
    cases hd : decode b with
    | ok i =>
      obtain ⟨-, -, hsupported⟩ := (exists_decode_eq_ok_iff b).1 ⟨i, hd⟩
      omega
    | error e =>
      obtain ⟨-, hillegal⟩ | ⟨rfl, -⟩ := fields_of_decode_error hd
      · exact (hillegal.elim (· hrsv) hfn).elim
      · rfl

/-- The converse of `fields_of_decode_error` for the illegal command. -/
theorem decode_eq_illegalCommand_iff (b : Byte) :
    decode b = .error .illegalCommand ↔
      b.extractLsb' 5 3 ≠ 0b000#3 ∨ b.extractLsb' 0 2 = 0b11#2 := by
  constructor
  · intro h
    obtain ⟨-, hfields⟩ | ⟨he, -⟩ := fields_of_decode_error h
    · exact hfields
    · cases he
  · intro hillegal
    cases hd : decode b with
    | ok i =>
      obtain ⟨hrsv, hfn, -⟩ := (exists_decode_eq_ok_iff b).1 ⟨i, hd⟩
      exact (hillegal.elim (· hrsv) hfn).elim
    | error e =>
      obtain ⟨rfl, -⟩ | ⟨-, hrsv, hfn, -⟩ := fields_of_decode_error hd
      · rfl
      · exact (hillegal.elim (· hrsv) hfn).elim

/-- The twelve bytes of R76 are those with its fields. -/
theorem unsupportedWidth_fields_iff_mem (b : Byte) :
    (b.extractLsb' 5 3 = 0b000#3 ∧ b.extractLsb' 0 2 ≠ 0b11#2 ∧ 4 ≤ (b.extractLsb' 2 3).toNat) ↔
      b ∈ [0x10#8, 0x11#8, 0x12#8, 0x14#8, 0x15#8, 0x16#8,
        0x18#8, 0x19#8, 0x1A#8, 0x1C#8, 0x1D#8, 0x1E#8] := by
  obtain ⟨hfn, hwsel, hrsv⟩ := toNat_extractLsb'_fields b
  simp only [ne_eq, ← BitVec.toNat_inj, hfn, hwsel, hrsv, List.mem_cons, List.not_mem_nil, or_false,
    BitVec.reduceToNat]
  omega

/-- The bytes of R77 are those with its fields. -/
theorem illegalCommand_fields_iff_mem (b : Byte) :
    (b.extractLsb' 5 3 ≠ 0b000#3 ∨ b.extractLsb' 0 2 = 0b11#2) ↔
      0x20 ≤ b.toNat ∨ b ∈ [0x03#8, 0x07#8, 0x0B#8, 0x0F#8, 0x13#8, 0x17#8, 0x1B#8, 0x1F#8] := by
  obtain ⟨hfn, -, hrsv⟩ := toNat_extractLsb'_fields b
  simp only [ne_eq, ← BitVec.toNat_inj, hfn, hrsv, List.mem_cons, List.not_mem_nil, or_false,
    BitVec.reduceToNat]
  omega

theorem fnOfOperation_rotate_iff (op : Operation) :
    fnOfOperation op = 0b00#2 ∨ fnOfOperation op = 0b01#2 ↔ op ≠ .bswap := by
  cases op <;> decide

end Sys2Proof
end

section
/-! PROOFS. The exceptions: the function BPU at the ports (60_exceptions R79), which error is reported when (R75 to R77),
what an error leaves behind (R78) and what its absence says (R81). -/

namespace Sys2Proof.Machine

/-- Settles O30: the decoder reads the fields as the pseudocode does, and each of the twelve meanings is the branch of it
for its fields; `step_of_some` puts the two together. -/
theorem stepComputesBpu : Obligations.StepComputesBpu :=
  fun _ _ hx => step_of_some hx

/-- The outputs that stand after a step are BPU of the inputs it read. -/
theorem eq_bpu_of_step {st t : State} {x : Inputs} {o : Outputs} (hx : readInputs st = some x)
    (hstep : step st = .next t) (hout : t.out = some o) : o = bpu x := by
  rw [step_of_some hx] at hstep
  cases hstep
  exact (Option.some.inj hout).symm

/-! InvalidShift (R75). -/

theorem rotateOutputs_err_eq_invalidShift_iff (W : Nat) (f : BitVec W → Nat → BitVec W) (x : Inputs) :
    (rotateOutputs W f x).err = errorCode .invalidShift ↔ x.s.toInt < 0 ∨ (W : Int) ≤ x.s.toInt := by
  rw [rotateOutputs_eq]
  split
  · next hout => exact iff_of_true rfl hout
  · next hin => exact iff_of_false (noError_ne_errorCode .invalidShift) hin

theorem commandOutputs_err_eq_invalidShift_iff (op : Operation) (w : Width) (x : Inputs) :
    (commandOutputs op w x).err = errorCode .invalidShift ↔
      op ≠ .bswap ∧ (x.s.toInt < 0 ∨ (w.bits : Int) ≤ x.s.toInt) := by
  cases op with
  | rol => simp [commandOutputs, rotateOutputs_err_eq_invalidShift_iff]
  | ror => simp [commandOutputs, rotateOutputs_err_eq_invalidShift_iff]
  | bswap => exact iff_of_false (noError_ne_errorCode .invalidShift) (fun h => h.1 rfl)

theorem decode_ne_invalidShift (b : Byte) : decode b ≠ .error .invalidShift := by
  intro h
  obtain he | he := decode_error h <;> cases he

/-- BPU reports InvalidShift exactly for a command that decodes to a rotate, its amount out of range. -/
theorem bpu_err_eq_invalidShift_iff (x : Inputs) :
    (bpu x).err = errorCode .invalidShift ↔
      ∃ i, decode x.cmd = .ok i ∧ i.operation ≠ .bswap ∧
        (x.s.toInt < 0 ∨ (i.width.bits : Int) ≤ x.s.toInt) := by
  cases hd : decode x.cmd with
  | ok i => simp [bpu_of_decode_ok hd, commandOutputs_err_eq_invalidShift_iff]
  | error e =>
    rw [bpu_of_decode_error hd, raised, errorCode_injective.eq_iff]
    refine iff_of_false ?_ (fun ⟨_, h, _⟩ => nomatch h)
    rintro rfl
    exact decode_ne_invalidShift _ hd

/-- Settles O23: the byte decodes to a rotate exactly when its fields are those of one. -/
theorem invalidShiftExactly : Obligations.InvalidShiftExactly := by
  intro st t x o hx hstep hout
  rw [eq_bpu_of_step hx hstep hout]
  refine (bpu_err_eq_invalidShift_iff x).trans ⟨?_, ?_⟩
  · rintro ⟨i, hi, hop, hrange⟩
    obtain ⟨hfn, hwsel, hrsv⟩ := fields_of_decode_ok hi
    rw [hfn, hwsel, fnOfOperation_rotate_iff, eight_mul_two_pow_wselOfWidth]
    exact ⟨hrsv, hop, not_le.1 (wselOfWidth_lt _), hrange⟩
  · rintro ⟨hrsv, hrotate, hsupported, hrange⟩
    have hassigned : x.cmd.extractLsb' 0 2 ≠ 0b11#2 := by
      obtain h | h := hrotate <;> simp [h]
    obtain ⟨i, hi⟩ := (exists_decode_eq_ok_iff x.cmd).2 ⟨hrsv, hassigned, Nat.le_of_lt_succ hsupported⟩
    obtain ⟨hfn, hwsel, -⟩ := fields_of_decode_ok hi
    rw [hfn, fnOfOperation_rotate_iff] at hrotate
    rw [hwsel, eight_mul_two_pow_wselOfWidth] at hrange
    exact ⟨i, hi, hrotate, hrange⟩

/-! UnsupportedWidth and IllegalCommand (R76, R77). -/

/-- Settles O24: the error is the decoder's, whose condition on the fields picks out the twelve bytes. -/
theorem unsupportedWidthExactly : Obligations.UnsupportedWidthExactly := by
  intro st t x o hx hstep hout
  rw [eq_bpu_of_step hx hstep hout]
  have hfields : (bpu x).err = 0b10#2 ↔ _ :=
    (bpu_err_eq_errorCode_iff (e := .unsupportedWidth) (by decide) x).trans (decode_eq_unsupportedWidth_iff x.cmd)
  exact ⟨hfields, hfields.trans (unsupportedWidth_fields_iff_mem x.cmd)⟩

/-- Settles O25: the error is the decoder's, whose condition on the fields picks out the 224 and the eight bytes. -/
theorem illegalCommandExactly : Obligations.IllegalCommandExactly := by
  intro st t x o hx hstep hout
  rw [eq_bpu_of_step hx hstep hout]
  have hfields : (bpu x).err = 0b11#2 ↔ _ :=
    (bpu_err_eq_errorCode_iff (e := .illegalCommand) (by decide) x).trans (decode_eq_illegalCommand_iff x.cmd)
  exact ⟨hfields, hfields.trans (illegalCommand_fields_iff_mem x.cmd)⟩

/-! What an error leaves behind (R78). -/

/-- A new transaction is presented over the outputs of the one before. -/
theorem present_driveOutputs (x : Inputs) (o : Outputs) (s : State) :
    present x (driveOutputs o s) = present x s := rfl

theorem transact_driveOutputs (x : Inputs) (o : Outputs) (s : State) :
    transact x (driveOutputs o s) = transact x s := by
  rw [transact, present_driveOutputs, transact]

theorem exists_bpu_eq_raised_of_err {x : Inputs} (h : (bpu x).err ≠ noError) : ∃ e, bpu x = raised e :=
  (bpu_raised_or_extended x).resolve_right fun ⟨_, hv⟩ => h (congrArg Outputs.err hv)

/-- Settles O28: outputs of BPU with an error code are those of a raised error, and the next transaction replaces them. -/
theorem errorLeavesNothingBehind : Obligations.ErrorLeavesNothingBehind := by
  intro st t o hstep hout herr
  obtain ⟨x, -, rfl⟩ := step_eq_next_bpu hstep
  obtain rfl : bpu x = o := Option.some.inj hout
  obtain ⟨e, he⟩ := exists_bpu_eq_raised_of_err herr
  exact ⟨congrArg Outputs.res he, ⟨e, congrArg Outputs.err he⟩, rfl,
    fun y => transact_driveOutputs y (bpu x) st⟩

/-! What `err` = 0b00 says (R81). -/

theorem rotateOutputs_of_noError {W : Nat} {f : BitVec W → Nat → BitVec W} {x : Inputs}
    (h : (rotateOutputs W f x).err = noError) :
    (0 ≤ x.s.toInt ∧ x.s.toInt < W) ∧
      (rotateOutputs W f x).res = (f (x.a.setWidth W) x.s.toInt.toNat).setWidth 64 := by
  rw [rotateOutputs] at h ⊢
  split at h
  · next hin => exact ⟨hin, by rw [if_pos hin]⟩
  · exact absurd h.symm (noError_ne_errorCode .invalidShift)

/-- BPU reports no error only for a byte that decodes to a command. -/
theorem exists_decode_eq_ok_of_noError {x : Inputs} (h : (bpu x).err = noError) :
    ∃ i, decode x.cmd = .ok i := by
  cases hd : decode x.cmd with
  | ok i => exact ⟨i, rfl⟩
  | error e =>
    rw [bpu_of_decode_error hd] at h
    exact absurd h.symm (noError_ne_errorCode e)

/-- A left rotate of the word 0 gives 0, which is no error (V30). -/
theorem bpu_rol32_zero : bpu { cmd := 0x08#8, a := 0, s := 5 } = { res := 0, err := 0b00#2 } := by
  decide

/-- Settles O29: the byte decodes, and a rotate without an error passed its range check. -/
theorem successIsTheResult : Obligations.SuccessIsTheResult := by
  refine ⟨fun st t x o hx hstep hout herr => ?_, fun st hx => ?_⟩
  · obtain rfl := eq_bpu_of_step hx hstep hout
    obtain ⟨i, hi⟩ := exists_decode_eq_ok_of_noError herr
    refine ⟨i, hi, (step_of_decode_ok hx hi).symm.trans hstep, ?_⟩
    rw [bpu_of_decode_ok hi] at herr ⊢
    generalize i.operation = op at herr ⊢
    cases op with
    | rol =>
      obtain ⟨hrange, hres⟩ := rotateOutputs_of_noError herr
      exact ⟨fun _ => hrange, fun _ => hres, nofun, nofun⟩
    | ror =>
      obtain ⟨hrange, hres⟩ := rotateOutputs_of_noError herr
      exact ⟨fun _ => hrange, nofun, fun _ => hres, nofun⟩
    | bswap => exact ⟨fun h => absurd rfl h, nofun, nofun, fun _ => rfl⟩
  · rw [step_of_some hx, bpu_rol32_zero]
    rfl

end Sys2Proof.Machine
end

section
/-! PROOFS. The platform: stepping one unit reads and writes its own place only (60_exceptions R87). -/

namespace Sys2Proof.Machine

/-- What the unit at place `n` does is fixed by the state at its place: in every platform with that state there it is refused,
or in every one it writes the same new state to its place. (A write to a place with no unit behind it changes
nothing, which is the model's step of such a place.) -/
theorem stepInstance_fixed_by_place (n : Nat) (p : Platform) :
    (∀ q : Platform, q[n]? = p[n]? → stepInstance n q = .refused .undrivenInput) ∨
      ∃ t, ∀ q : Platform, q[n]? = p[n]? → stepInstance n q = .next (q.set n t) := by
  cases hp : p[n]? with
  | none =>
    refine .inr ⟨State.reset, fun q hq => ?_⟩
    rw [stepInstance, hq, List.set_eq_of_length_le (List.getElem?_eq_none_iff.1 hq)]
  | some s =>
    cases hx : readInputs s with
    | none => exact .inl fun q hq => by simp only [stepInstance, hq, step_of_none hx]
    | some x =>
      exact .inr ⟨driveOutputs (bpu x) s, fun q hq => by simp only [stepInstance, hq, step_of_some hx]⟩

theorem stepInstance_frame {n m : Nat} {p q : Platform} (h : stepInstance n p = .next q) (hmn : m ≠ n) :
    q[m]? = p[m]? := by
  obtain hrefused | ⟨t, hnext⟩ := stepInstance_fixed_by_place n p
  · rw [hrefused p rfl] at h
    cases h
  · rw [hnext p rfl] at h
    cases h
    exact List.getElem?_set_ne hmn.symm

/-- Where the unit at place `m` is refused, it is refused after the one at place `n` has stepped too, and so is the pair
in either order. -/
theorem stepInstances_of_refused {m n : Nat} (hnm : n ≠ m) {p : Platform}
    (hm : ∀ q : Platform, q[m]? = p[m]? → stepInstance m q = .refused .undrivenInput) :
    stepInstances m n p = .refused .undrivenInput ∧ stepInstances n m p = .refused .undrivenInput := by
  refine ⟨by rw [stepInstances, hm p rfl], ?_⟩
  obtain hn | ⟨u, hn⟩ := stepInstance_fixed_by_place n p
  · rw [stepInstances, hn p rfl]
  · simp only [stepInstances, hn p rfl]
    exact hm _ (List.getElem?_set_ne hnm)

theorem stepInstances_comm {n m : Nat} (hnm : n ≠ m) (p : Platform) :
    stepInstances m n p = stepInstances n m p := by
  obtain hm | ⟨t, hm⟩ := stepInstance_fixed_by_place m p
  · obtain ⟨hmFirst, hnFirst⟩ := stepInstances_of_refused hnm hm
    rw [hmFirst, hnFirst]
  obtain hn | ⟨u, hn⟩ := stepInstance_fixed_by_place n p
  · obtain ⟨hnFirst, hmFirst⟩ := stepInstances_of_refused hnm.symm hn
    rw [hmFirst, hnFirst]
  · simp only [stepInstances, hm p rfl, hn p rfl]
    rw [hn _ (List.getElem?_set_ne hnm.symm), hm _ (List.getElem?_set_ne hnm), List.set_comm _ _ hnm.symm]

/-- Settles O49: a unit writes its own place only, and two writes to different places commute. -/
theorem instancesIndependent : Obligations.InstancesIndependent :=
  ⟨fun _ _ _ _ h hmn => stepInstance_frame h hmn, fun _ _ p hnm => stepInstances_comm hnm p⟩

end Sys2Proof.Machine
end

section
/-! PROOFS. Reset and hazards (70_reset): the state at power-up, the first transaction after it, and the outputs between
two transactions. -/

namespace Sys2Proof.Machine

/-! Power-up (R88 to R90). -/

theorem getLsbD_undriven_defined (w i : Nat) : (Port.undriven w).defined.getLsbD i = false :=
  BitVec.getLsbD_zero

theorem canonical_undriven (w : Nat) : (Port.undriven w).canonical :=
  BitVec.zero_and

/-- A transaction drives every bit of every input port and ends the validity of the outputs, so nothing of the state
before is left in the state it presents. -/
theorem present_eq_present (x : Inputs) (s t : State) : present x s = present x t := rfl

/-- Settles O38: the same state is presented to the unit after power-up as in any other state. -/
theorem firstTransactionLikeEveryOther : Obligations.FirstTransactionLikeEveryOther := by
  intro x st
  constructor
  · rw [transact, present_eq_present x State.reset st, transact]
  · exact sampled_step_of_some (readInputs_present x State.reset)

theorem hasUndrivenBit_reset : State.reset.hasUndrivenBit :=
  .inl ⟨0, by decide, getLsbD_undriven_defined 8 0⟩

/-- Settles O37: the ports are undriven, and a step with an undriven bit is refused. -/
theorem resetAdmitsNoTransaction : Obligations.ResetAdmitsNoTransaction := by
  refine ⟨fun i => ?_, rfl, step_of_none ((hasUndrivenBit_iff _).1 hasUndrivenBit_reset)⟩
  exact ⟨getLsbD_undriven_defined 8 i, getLsbD_undriven_defined 64 i, getLsbD_undriven_defined 64 i⟩

/-! The invariant at power-up and between two steps (R89, R93). -/

/-- Outputs that are not defined claim nothing of the inputs. -/
theorem outputsSound_of_out_eq_none {s : State} (h : s.out = none) : s.outputsSound := by
  intro o ho
  rw [h] at ho
  cases ho

/-- Settles O40: an undriven port is canonical, and no outputs are defined. -/
theorem resetSound : Obligations.ResetSound :=
  ⟨⟨canonical_undriven 8, canonical_undriven 64, canonical_undriven 64⟩, outputsSound_of_out_eq_none rfl⟩

theorem hostMove_out (m : HostMove) (s : State) : (hostMove m s).out = none := by
  cases m <;> rfl

theorem portsCanonical_hostMove {m : HostMove} {s : State} (hm : m.canonical) (hs : s.portsCanonical) :
    (hostMove m s).portsCanonical := by
  obtain ⟨hcmd, ha, hsh⟩ := hs
  cases m with
  | cmd p => exact ⟨hm, ha, hsh⟩
  | a p => exact ⟨hcmd, hm, hsh⟩
  | s p => exact ⟨hcmd, ha, hm⟩

/-- Settles O41: a move replaces one canonical port by another and leaves no outputs defined. -/
theorem hostMovesKeepSound : Obligations.HostMovesKeepSound := by
  intro m st hm hsound
  obtain ⟨hports, -⟩ := hsound
  exact ⟨portsCanonical_hostMove hm hports, outputsSound_of_out_eq_none (hostMove_out m st)⟩

/-- Settles O42: a step that answers writes BPU of the inputs it read, and leaves those on the ports. -/
theorem stepSettlesOutputs : Obligations.StepSettlesOutputs := by
  intro st t hstep
  obtain ⟨x, hx, rfl⟩ := step_eq_next_bpu hstep
  exact ⟨x, (readInputs_driveOutputs _ st).trans hx, driveOutputs_out _ st⟩

end Sys2Proof.Machine
end
